-- ==== Sys2Proof/Word.lean ====
section
/-! DEFINITION. The widths of the values that the CT40 keeps or sends as bits. -/

namespace Sys2Proof

/-- One byte of a frame, a payload or the profile image (R198). -/
abbrev Byte := BitVec 8

/-- A 16-bit quantity: tags, sequence numbers, counts of a notice, the max lease (R198). -/
abbrev Half := BitVec 16

/-- A value of the monotonic count, 48 bits, wrapping at 2^48 (R2, R3). -/
abbrev Mono := BitVec 48

/-- A timeline value read as one count of timeline ticks, seconds × 4096 + ticks (R4). -/
abbrev Time := BitVec 44

/-- The handle of a slot of the entry store, 0 to 95 (R28). -/
abbrev Handle := Fin 96

end Sys2Proof
end

