-- ==== Sys2Proof/Syntax.lean ====
section
/-! DEFINITION. The commands and events of the CT40, one constructor per row of spec/opcode_table.json. -/

namespace Sys2Proof

/-- The four host ports. Where an order of ports is stated, it is A, B, C, D (00_scope.md, Numbers and bytes). -/
inductive Port where
  | a | b | c | d
  deriving DecidableEq, Repr

/-- The four strobe lines, 0 to 3. -/
inductive Line where
  | l0 | l1 | l2 | l3
  deriving DecidableEq, Repr

/-- One value for each port. -/
structure PerPort (α : Type) where
  a : α
  b : α
  c : α
  d : α
  deriving DecidableEq, Repr

/-- One value for each strobe line. -/
structure PerLine (α : Type) where
  l0 : α
  l1 : α
  l2 : α
  l3 : α
  deriving DecidableEq, Repr

/-- What the controller samples on CFGSDA in one read of the profile image (R160). -/
structure ReadTransfer where
  /-- The levels after the recovery pulses, high being true (step 1). -/
  recovery : List Bool
  /-- Whether the memory acknowledged each of the bytes sent, in the order sent (steps 2 and 3). -/
  acks : List Bool
  /-- The bytes received (step 4). -/
  bytes : List Byte
  deriving DecidableEq, Repr

/-- The pin levels that the part finds at power-on (R193). -/
structure PowerLevels where
  /-- VDD is above 2.70 V. -/
  vddHigh : Bool
  /-- VBAT is above 2.1 V. -/
  vbatHigh : Bool
  /-- SYSRSTN is low. -/
  resetLow : Bool
  /-- Per port: select is asserted. -/
  select : PerPort Bool
  deriving DecidableEq, Repr

/-- An assertion of select: the port, and the complete bytes that the host clocks after it and before the row that ends
the transaction or discards it (R165, R166; log 6). -/
structure Assertion where
  port : Port
  bytes : List Byte
  deriving DecidableEq, Repr

/-- The rows of spec/opcode_table.json. The rows of a transaction stand for the release of select that ends it: they
carry the port and what the host sent (R171) after the bytes that SELECT_ASSERTION carries (log 6). A command row carries
the sequence byte and the payload bytes of its REQUEST frame (R170). -/
inductive Instr where
  /-- OSCILLATOR_TICK (R1). -/
  | oscillatorTick
  /-- CRYSTAL_STOP (R15). -/
  | crystalStop
  /-- CRYSTAL_TRANSITION (R15); `endsPeriod` says whether the transition ends a crystal period, which the divider
  counts (R1). Log 9. -/
  | crystalTransition (endsPeriod : Bool)
  /-- LEASE_EXPIRY (R118). -/
  | leaseExpiry
  /-- ATTENTION_PULSE_END (R136). -/
  | attentionPulseEnd (p : Port)
  /-- STROBE_PULSE_END (R143). -/
  | strobePulseEnd (l : Line)
  /-- WALK_VISIT (R70). -/
  | walkVisit
  /-- END_OF_WALK (R78). -/
  | endOfWalk
  /-- SELECT_ASSERTION (R166), with the first bytes that the host clocks (R165; log 6). -/
  | selectAssertion (x : Assertion)
  /-- FRAME_TIMEOUT (R173). -/
  | frameTimeout (p : Port)
  /-- FRAME_ERROR (R171, R172): select is released after these further complete bytes and `bits` bits of an incomplete
  one. -/
  | frameError (p : Port) (bytes : List Byte) (bits : Fin 8)
  /-- EMPTY_TRANSACTION (R165): select is released and no further clock edge came, or the receiver was discarding. -/
  | emptyTransaction (p : Port)
  /-- COLLECT (R176): the marker 3Ch, the bytes the host sent after it, and the bits of an incomplete last byte. -/
  | collect (p : Port) (after : List Byte) (bits : Fin 8)
  /-- UNKNOWN_COMMAND (R177): a REQUEST frame with this command code. -/
  | unknownCommand (p : Port) (code : Byte) (seq : Byte) (payload : List Byte)
  /-- IDENTIFY (R182). -/
  | identify (p : Port) (seq : Byte) (payload : List Byte)
  /-- SELF_RESET (R183). -/
  | selfReset (p : Port) (seq : Byte) (payload : List Byte)
  /-- READ_TIME (R22). -/
  | readTime (p : Port) (seq : Byte) (payload : List Byte)
  /-- READ_CALENDAR (R23). -/
  | readCalendar (p : Port) (seq : Byte) (payload : List Byte)
  /-- CLAIM_AUTHORITY (R114, R115). -/
  | claimAuthority (p : Port) (seq : Byte) (payload : List Byte)
  /-- RELEASE_AUTHORITY (R117). -/
  | releaseAuthority (p : Port) (seq : Byte) (payload : List Byte)
  /-- STEP_TIME (R17). -/
  | stepTime (p : Port) (seq : Byte) (payload : List Byte)
  /-- SLEW_TIME (R13). -/
  | slewTime (p : Port) (seq : Byte) (payload : List Byte)
  /-- SET_TRIM (R10). -/
  | setTrim (p : Port) (seq : Byte) (payload : List Byte)
  /-- CREATE_ENTRY (R43 to R45). -/
  | createEntry (p : Port) (seq : Byte) (payload : List Byte)
  /-- CANCEL_ENTRY (R50 to R52). -/
  | cancelEntry (p : Port) (seq : Byte) (payload : List Byte)
  /-- QUERY_ENTRY (R53). -/
  | queryEntry (p : Port) (seq : Byte) (payload : List Byte)
  /-- LIST_OWN (R54). -/
  | listOwn (p : Port) (seq : Byte) (payload : List Byte)
  /-- TAKE_NOTICES (R98). -/
  | takeNotices (p : Port) (seq : Byte) (payload : List Byte)
  /-- ACK_NOTICES (R100, R101). -/
  | ackNotices (p : Port) (seq : Byte) (payload : List Byte)
  /-- READ_FLAGS (R130). -/
  | readFlags (p : Port) (seq : Byte) (payload : List Byte)
  /-- CLEAR_FLAGS (R131). -/
  | clearFlags (p : Port) (seq : Byte) (payload : List Byte)
  /-- SET_ATTENTION (R134). -/
  | setAttention (p : Port) (seq : Byte) (payload : List Byte)
  /-- READ_PROFILE (R158). -/
  | readProfile (p : Port) (seq : Byte) (payload : List Byte)
  /-- SET_PROFILE (R152, R153). -/
  | setProfile (p : Port) (seq : Byte) (payload : List Byte)
  /-- SET_STROBE_MAP (R155). -/
  | setStrobeMap (p : Port) (seq : Byte) (payload : List Byte)
  /-- RESET_PORT (R156). -/
  | resetPort (p : Port) (seq : Byte) (payload : List Byte)
  /-- HOLDOVER_ENTRY (R188). -/
  | holdoverEntry
  /-- SETTLE_START (R187). -/
  | settleStart
  /-- SETTLE_ABORT (R187). -/
  | settleAbort
  /-- RESUME (R189). -/
  | resume
  /-- BACKUP_LOW (R191). -/
  | backupLow
  /-- BACKUP_PRESENT (R191). -/
  | backupPresent
  /-- POWER_ON (R193). -/
  | powerOn (levels : PowerLevels)
  /-- SYSRSTN_ASSERTION (R194). -/
  | sysrstnAssertion
  /-- SYSRSTN_RELEASE (R196). -/
  | sysrstnRelease
  /-- PROFILE_LOAD_COMPLETE (R163): the read goes on to its end, with what is sampled in it. -/
  | profileLoadComplete (transfer : ReadTransfer)
  deriving DecidableEq, Repr

end Sys2Proof
end

