-- ==== Sys2Proof/Decode.lean ====
section
/-! DEFINITION. The command that a word of the opcode table spells. Every row of spec/opcode_table.json is an event or
a command of a block and gives no bits, so no word spells one. The bytes of a REQUEST frame are judged in
Machine/Frames.lean. -/

namespace Sys2Proof

/-- No row of the table gives bits: no word spells a command. -/
def decodeTableWord (_nbits _w : Nat) : Option Instr := none

end Sys2Proof
end

