-- ==== Sys2Proof/Config.lean ====
section
/-! DEFINITION. What the manual leaves to the world outside the part. -/

namespace Sys2Proof

/-- Whether CFGSDA is low when the n-th read of the profile image begins (R160, step 1). The manual says that an
abandoned read may leave the memory holding CFGSDA low (R164) and gives no rule for the level: a free value, with no
body. Log 5. -/
opaque Config.cfgsdaLow : Nat → Bool

/-- The byte that a port shifts out at a place after the first byte of a transaction whose first byte is neither C3h nor
3Ch, from that first byte and the place. R166, R170 and R175 give the bytes of a REQUEST and of a COLLECT alone: a free
value, with no body. Log 27. -/
opaque Config.otherMarkerOut : Byte → Nat → Byte

end Sys2Proof
end

