-- ==== Sys2Proof/Machine/State.lean ====
section
/-! DEFINITION. The state of the CT40, block by block as 00_scope.md lists them, and its value after power-on. -/

namespace Sys2Proof

/-- The value of one port. -/
def PerPort.get {α : Type} (q : PerPort α) : Port → α
  | .a => q.a
  | .b => q.b
  | .c => q.c
  | .d => q.d

/-- The table with the value of one port replaced. -/
def PerPort.set {α : Type} (q : PerPort α) (p : Port) (x : α) : PerPort α :=
  match p with
  | .a => { q with a := x }
  | .b => { q with b := x }
  | .c => { q with c := x }
  | .d => { q with d := x }

/-- The table with every port's value passed through `f`. -/
def PerPort.map {α β : Type} (f : α → β) (q : PerPort α) : PerPort β :=
  ⟨f q.a, f q.b, f q.c, f q.d⟩

/-- The same value at every port. -/
def PerPort.const {α : Type} (x : α) : PerPort α := ⟨x, x, x, x⟩

/-- The value of one line. -/
def PerLine.get {α : Type} (q : PerLine α) : Line → α
  | .l0 => q.l0
  | .l1 => q.l1
  | .l2 => q.l2
  | .l3 => q.l3

/-- The table with the value of one line replaced. -/
def PerLine.set {α : Type} (q : PerLine α) (l : Line) (x : α) : PerLine α :=
  match l with
  | .l0 => { q with l0 := x }
  | .l1 => { q with l1 := x }
  | .l2 => { q with l2 := x }
  | .l3 => { q with l3 := x }

/-- The same value at every line. -/
def PerLine.const {α : Type} (x : α) : PerLine α := ⟨x, x, x, x⟩

namespace Machine

/-! ### Timebase Unit -/

/-- The TBU's judgement of the timeline value (R14). -/
inductive Validity where
  | unset | valid | suspect
  deriving DecidableEq, Repr

/-- The crystal monitor state (R15). -/
inductive CrystalMonitor where
  | notArmed | running | stopped
  deriving DecidableEq, Repr

/-- The state of the Timebase Unit (01_the_timeline.md). -/
structure Tbu where
  /-- Crystal divider position (R1). -/
  divider : BitVec 3
  /-- Monotonic count (R2). -/
  mono : Mono
  /-- Timeline value (R4). -/
  timeline : Time
  /-- Trim, −63 to +63 (R9, R10). -/
  trim : Int
  /-- Slew remaining, −1 048 576 to +1 048 576 (R11, R13). -/
  slew : Int
  /-- Validity (R14). -/
  validity : Validity
  /-- Crystal monitor state (R15). -/
  monitor : CrystalMonitor
  deriving DecidableEq, Repr

/-! ### Authority Arbiter -/

/-- A held lease: the holder and the lease end on the monotonic count (R112). -/
structure Lease where
  holder : Port
  endAt : Mono
  deriving DecidableEq, Repr

/-! ### Agenda Unit: entries -/

/-- What a forward step that overtakes the due of a WALL entry does to it (02_agenda_entries.md, 2.2). -/
inductive StepPolicy where
  | fireLate | skip
  deriving DecidableEq, Repr

/-- Why an entry ended (R47). -/
inductive EndCause where
  | fired | skipped | exhausted | cancelled
  deriving DecidableEq, Repr

/-- The day selector of a calendar pattern (R35). Bit 0 of a weekday set is Monday. -/
inductive DaySelector where
  | any
  | monthday (day : Nat)
  | weekdays (days : BitVec 7)
  deriving DecidableEq, Repr

/-- A calendar pattern; `none` is ANY (R35). -/
structure Pattern where
  second : Option Nat
  minute : Option Nat
  hour : Option Nat
  month : Option Nat
  day : DaySelector
  deriving DecidableEq, Repr

/-- Kind and reference of an entry, with the fixed timing fields recorded for the combination (R29, R30). -/
inductive Schedule where
  | oneShotWall
  | oneShotElapsed
  | periodicWall (period : BitVec 40) (anchor : Time)
  | periodicElapsed (period : BitVec 40)
  | calendar (pattern : Pattern)
  deriving DecidableEq, Repr

/-- A strobe action: the line and the width in oscillator ticks (R28). -/
structure StrobeAction where
  line : Line
  width : Byte
  deriving DecidableEq, Repr

/-- The conditions that a notice may carry (04_notices.md, 4.2). -/
structure Marks where
  holdover : Bool
  strobeSuppressed : Bool
  saturated : Bool
  deriving DecidableEq, Repr

/-- What a notice reports (04_notices.md, 4.2). -/
inductive Reason where
  | fired | skipped | exhausted
  deriving DecidableEq, Repr

/-- A notice record without its seq, handle and tag: what a report, a pending summary and a terminal pending hold
(R90, R93, R94). -/
structure Report where
  reason : Reason
  fires : Half
  late : Half
  missed : Half
  first : Time
  last : Time
  marks : Marks
  deriving DecidableEq, Repr

/-- The state of an allocated slot's entry: ARMED with its due, or ENDED with its end cause (R28, R29, R47). -/
inductive EntryStatus where
  | armed (due : Time)
  | ended (cause : EndCause)
  deriving DecidableEq, Repr

/-- An entry record (R28, R29). Its handle is the number of the slot that holds it. The missed accumulator of a ONE_SHOT
entry, which has none, stays 0. -/
structure Entry where
  owner : Port
  tag : Half
  schedule : Schedule
  policy : StepPolicy
  notify : Bool
  strobe : Option StrobeAction
  persist : Bool
  status : EntryStatus
  missed : Half
  summary : Option Report
  terminal : Option Report
  deriving DecidableEq, Repr

/-! ### Agenda Unit: the walk and the held-command list -/

/-- The walk record (R69). -/
structure Walk where
  /-- The stepping port. -/
  port : Port
  oldValue : Time
  newValue : Time
  droppedSlew : Int
  /-- The new value minus the old value, signed. -/
  delta : Int
  /-- The walk position, 0 to 96. -/
  position : Nat
  /-- The skipped count. The fired-late count is formed at the end of the walk, where alone it rises (R75). -/
  skipped : Nat
  firedLate : Nat
  /-- Response wanted. -/
  wanted : Bool
  deriving DecidableEq, Repr

/-- The agenda state; the walk record is present while REALIGNING (R69). -/
inductive AgendaState where
  | running
  | realigning (w : Walk)
  deriving DecidableEq, Repr

/-- One of the five commands that the AGU holds while REALIGNING, with its payload as the port took it (R81). -/
inductive AgendaCommand where
  | step (payload : List Byte)
  | create (payload : List Byte)
  | cancel (payload : List Byte)
  | query (payload : List Byte)
  | listOwn
  deriving DecidableEq, Repr

/-- The state of the Agenda Unit (02_agenda_entries.md, 03_firing_and_realignment.md). -/
structure Agu where
  /-- The entry store; `none` is a FREE slot (R28). -/
  store : Vector (Option Entry) 96
  /-- The agenda (R59). -/
  agenda : List Handle
  /-- The agenda state with the walk record (R69). -/
  state : AgendaState
  /-- The held-command list (R81). -/
  held : PerPort (Option AgendaCommand)
  deriving DecidableEq, Repr

/-! ### Notice Unit -/

/-- A notice in a queue (04_notices.md, 4.2). -/
structure Notice where
  seq : Half
  handle : Handle
  tag : Half
  report : Report
  delivered : Bool
  deriving DecidableEq, Repr

/-- The notice queue of a port, front first, and its next sequence number (R88, R89). -/
structure NoticeQueue where
  notices : List Notice
  nextSeq : Half
  deriving DecidableEq, Repr

/-! ### Attention and Strobe Unit -/

/-- The kind of the latest frame error (R129). -/
inductive FrameCause where
  | none | marker | length | crc | timeout | busy | notReady
  deriving DecidableEq, Repr

/-- The attention mode (R134). -/
inductive AttnMode where
  | level | pulse
  deriving DecidableEq, Repr

/-- The attention line (06_attention_and_strobe_outputs.md, 6.5). -/
inductive AttnLine where
  | released | driven
  deriving DecidableEq, Repr

/-- The ASU state of one port (06_attention_and_strobe_outputs.md). Bit numbers of the sets are those of 10.3. -/
structure Attn where
  flags : BitVec 9
  cause : FrameCause
  enables : BitVec 10
  mode : AttnMode
  pulseEnd : Option Mono
  line : AttnLine
  deriving DecidableEq, Repr

/-- A strobe line: IDLE, or PULSING with its pulse end (R141). -/
inductive StrobeLine where
  | idle
  | pulsing (endAt : Mono)
  deriving DecidableEq, Repr

/-! ### Profile Unit -/

/-- A profile record (R147). -/
structure Profile where
  admin : Bool
  maySteer : Bool
  maxLease : Half
  base : Byte
  limit : Byte
  quota : Byte
  deriving DecidableEq, Repr

/-- The polarity of a strobe line (R141). -/
inductive Polarity where
  | activeHigh | activeLow
  deriving DecidableEq, Repr

/-- A strobe-map record; an owner of `none` is NONE (R147). -/
structure StrobeRecord where
  owner : Option Port
  polarity : Polarity
  deriving DecidableEq, Repr

/-- The profile source (R158). -/
inductive ProfileSource where
  | image | defaultAbsent | defaultBad
  deriving DecidableEq, Repr

/-- The load state (R159). -/
inductive LoadState where
  | waitingSupply | loading | ready
  deriving DecidableEq, Repr

/-- The two-wire controller phase (R159, R160). -/
inductive TwoWire where
  | idle | held | recovering | reading
  deriving DecidableEq, Repr

/-- One thing that the two-wire controller does on CFGSCL and CFGSDA in a read (R160). -/
inductive BusItem where
  /-- A recovery clock pulse, and whether CFGSDA is high after it. -/
  | pulse (high : Bool)
  | start
  | repeatedStart
  | stop
  /-- A byte sent, and whether the memory acknowledged it. -/
  | sent (byte : Byte) (acked : Bool)
  /-- A byte received, and whether the controller acknowledged it. -/
  | received (byte : Byte) (acked : Bool)
  deriving DecidableEq, Repr

/-- The state of the Profile Unit (07_port_profiles_and_the_profile_image.md). -/
structure Pru where
  profiles : PerPort Profile
  strobeMap : PerLine StrobeRecord
  source : ProfileSource
  load : LoadState
  twoWire : TwoWire
  /-- The MODEL's own: what the controller has done on its pins in the latest read. Log 18. -/
  bus : List BusItem
  deriving DecidableEq, Repr

/-! ### Port Controllers -/

/-- The result of a command (10.3). -/
inductive Result where
  | ok | unknownCommand | badLength | badValue | notPermitted | notHolder | heldByOther | noSlot | quotaFull
  | badHandle | inPast | noMatch | badSeq | lastAdmin | quotaBelowUse
  deriving DecidableEq, Repr

/-- The outstanding command record (R167). -/
structure Command where
  code : Byte
  seq : Byte
  payload : List Byte
  held : Bool
  deriving DecidableEq, Repr

/-- A response record (R179). -/
structure Response where
  code : Byte
  seq : Byte
  result : Result
  payload : List Byte
  deriving DecidableEq, Repr

/-- The port state, with the outstanding command in WORKING and the response in DONE (R167). -/
inductive PortState where
  | notReady
  | idle
  | working (c : Command)
  | done (r : Response)
  | offline
  deriving DecidableEq, Repr

/-- The transaction snapshot: the status byte and the bytes of the collect reply with its check byte (R166, R175). -/
structure Snapshot where
  status : Byte
  reply : List Byte
  deriving DecidableEq, Repr

/-- What a receiver has of the bytes of the transaction in progress (R165, R170, R175). -/
structure Received where
  /-- The bytes stored, at most 53; of a COLLECT the marker alone. -/
  stored : List Byte
  /-- The number of complete bytes so far, stored or not. -/
  count : Nat
  deriving DecidableEq, Repr

/-- The frame receiver, with the frame limit end, the snapshot and the received bytes while RECEIVING (R166). -/
inductive Receiver where
  | waiting
  | receiving (limit : Mono) (snapshot : Snapshot) (received : Received)
  | discarding
  deriving DecidableEq, Repr

/-- The state of one Port Controller (08_host_ports.md). -/
structure PortCtl where
  /-- The select pin is asserted. -/
  select : Bool
  state : PortState
  receiver : Receiver
  /-- The MODEL's own: the bytes shifted out so far in the latest transaction. Log 7. -/
  dout : List Byte
  deriving DecidableEq, Repr

/-! ### Supply Monitor -/

/-- The supply state; the settle end is present while SETTLING (R186, R187). -/
inductive Supply where
  | main
  | settling (endAt : Mono)
  | holdover
  deriving DecidableEq, Repr

/-- The backup state (R191). -/
inductive Backup where
  | present | low
  deriving DecidableEq, Repr

/-- The state of the Supply Monitor (09_supply_holdover_and_start_up.md). -/
structure Spm where
  supply : Supply
  backup : Backup
  /-- The reset input is ASSERTED (R194). -/
  resetAsserted : Bool
  deriving DecidableEq, Repr

/-! ### The whole part -/

/-- The state of the part, one field per block, and the model's own four: the queue of waiting commands, the count of
free values drawn, in each port the bytes shifted out, and in the PRU the record of the two-wire pins. -/
structure State where
  tbu : Tbu
  lease : Option Lease
  agu : Agu
  queues : PerPort NoticeQueue
  attn : PerPort Attn
  strobes : PerLine StrobeLine
  pru : Pru
  ports : PerPort PortCtl
  spm : Spm
  /-- The MODEL's own: the number of free values drawn. Log 5. -/
  draws : Nat
  /-- The MODEL's own: the commands that wait, first in, first out. -/
  pending : List Instr
  deriving DecidableEq, Repr

/-- Why the machine would stop with a fault. -/
inductive Fault where
  /-- Raised by nobody: the spec names no event that stops the part (INVENTORY.md, Faults). Safe. -/
  | stopped
  deriving DecidableEq, Repr

/-- Why a command would have no meaning. -/
inductive Refusal where
  /-- Raised by an arm of `exec` whose command has no meaning yet; no arm of this model does. Safe. -/
  | notModelled (mnemonic : String)
  deriving DecidableEq, Repr

/-! ### Named updates, one per block -/

/-- Replace the TBU's state. -/
def State.setTbu (s : State) (x : Tbu) : State := { s with tbu := x }

/-- Replace the lease. -/
def State.setLease (s : State) (x : Option Lease) : State := { s with lease := x }

/-- Replace the AGU's state. -/
def State.setAgu (s : State) (x : Agu) : State := { s with agu := x }

/-- Replace one port's notice queue. -/
def State.setQueue (s : State) (p : Port) (x : NoticeQueue) : State := { s with queues := s.queues.set p x }

/-- Replace one port's ASU state. -/
def State.setAttn (s : State) (p : Port) (x : Attn) : State := { s with attn := s.attn.set p x }

/-- Replace one strobe line's state. -/
def State.setStrobe (s : State) (l : Line) (x : StrobeLine) : State := { s with strobes := s.strobes.set l x }

/-- Replace the PRU's state. -/
def State.setPru (s : State) (x : Pru) : State := { s with pru := x }

/-- Replace one Port Controller's state. -/
def State.setPort (s : State) (p : Port) (x : PortCtl) : State := { s with ports := s.ports.set p x }

/-- Replace the SPM's state. -/
def State.setSpm (s : State) (x : Spm) : State := { s with spm := x }

/-! ### Reset -/

/-- The default profile of a port: MAY_STEER, 60 s, a window of its own, quota 24; ADMIN on Port A alone (R148). -/
def defaultProfiles : PerPort Profile where
  a := ⟨true, true, 60, 0, 23, 24⟩
  b := ⟨false, true, 60, 24, 47, 24⟩
  c := ⟨false, true, 60, 48, 71, 24⟩
  d := ⟨false, true, 60, 72, 95, 24⟩

/-- The default strobe map: every line NONE, ACTIVE_HIGH (R148). -/
def defaultStrobeMap : PerLine StrobeRecord := .const ⟨none, .activeHigh⟩

/-- The ASU state of a port with its defaults and one flag set standing: flags cleared, cause NONE, enables empty, LEVEL,
no pulse, line RELEASED, then the flags `f` set (R139, R140). -/
def Attn.defaults (f : BitVec 9) : Attn := ⟨f, .none, 0, .level, none, .released⟩

/-- The AGU with every slot FREE, RUNNING, and no held command (R55, R86). -/
def Agu.empty : Agu := ⟨.replicate 96 none, [], .running, .const none⟩

/-- The part right after power-on with VDD above 2.70 V, VBAT above 2.1 V, SYSRSTN high, every select released, and
CFGSDA high when the read of the profile image begins (R24, R55, R86, R105, R126, R139, R146, R148, R159, R168, R193).
RESTARTED is bit 4 of the flag set. DESIGN CHOICE (log 4): these levels. -/
def State.reset : State where
  tbu := ⟨0, 0, 0, 0, 0, .unset, .notArmed⟩
  lease := none
  agu := .empty
  queues := .const ⟨[], 0⟩
  attn := .const (.defaults 0b000010000)
  strobes := .const .idle
  pru := ⟨defaultProfiles, defaultStrobeMap, .defaultAbsent, .loading, .reading, []⟩
  ports := .const ⟨false, .notReady, .waiting, []⟩
  spm := ⟨.main, .present, false⟩
  draws := 0
  pending := []

end Machine

end Sys2Proof
end

