-- ==== Sys2Proof/Machine/Constants.lean ====
section
/-! DEFINITION. The fixed numbers of the part: limits, durations and codes (10_frame_and_record_layouts.md). -/

namespace Sys2Proof.Machine

/-- The ports in port order (00_scope.md, Numbers and bytes). -/
def allPorts : List Port := [.a, .b, .c, .d]

/-- The strobe lines 0 to 3. -/
def allLines : List Line := [.l0, .l1, .l2, .l3]

/-- The handles in handle order (R28). -/
def allHandles : List Handle := List.finRange 96

/-- The last timeline value, 4294967295:4095 (R6). -/
def lastTime : Time := 0xFFFFFFFFFFF#44

/-- The greatest magnitude of a trim (R10). -/
def maxTrim : Int := 63

/-- The greatest magnitude of a slew amount (R13). -/
def maxSlew : Int := 1048576

/-- The length of a run of trim adjustment ticks (R9). -/
def trimRun : Nat := 1048576

/-- The frame limit in oscillator ticks (R166, R173). -/
def frameLimitTicks : Mono := 400

/-- An attention pulse in oscillator ticks (R136). -/
def attnPulseTicks : Mono := 64

/-- The settle window in oscillator ticks (R187). -/
def settleTicks : Mono := 160

/-- The capacity of a notice queue (R88). -/
def queueDepth : Nat := 16

/-- The greatest payload of a REQUEST (R170). -/
def maxPayload : Nat := 48

/-- The number of bytes of a frame that a receiver stores (R170). -/
def maxStored : Nat := 53

/-- The marker of a REQUEST frame (R170). -/
def requestMarker : Byte := 0xC3

/-- The marker of a COLLECT frame (R175). -/
def collectMarker : Byte := 0x3C

/-- The code of a port: the character code of its letter (R198). -/
def portCode : Port → Byte
  | .a => 0x41
  | .b => 0x42
  | .c => 0x43
  | .d => 0x44

/-- The port that a code names, if any (R198). -/
def portOfCode (x : Byte) : Option Port :=
  if x = 0x41 then some .a
  else if x = 0x42 then some .b
  else if x = 0x43 then some .c
  else if x = 0x44 then some .d
  else none

/-- The code of a port or none (R198). -/
def holderCode : Option Port → Byte
  | none => 0x00
  | some p => portCode p

/-- The code of a result (10.3). -/
def resultCode : Result → Byte
  | .ok => 0x00
  | .unknownCommand => 0x01
  | .badLength => 0x02
  | .badValue => 0x03
  | .notPermitted => 0x04
  | .notHolder => 0x05
  | .heldByOther => 0x06
  | .noSlot => 0x07
  | .quotaFull => 0x08
  | .badHandle => 0x09
  | .inPast => 0x0A
  | .noMatch => 0x0B
  | .badSeq => 0x0C
  | .lastAdmin => 0x0D
  | .quotaBelowUse => 0x0E

/-- The code of a validity (10.3). -/
def validityCode : Validity → Byte
  | .unset => 0x00
  | .valid => 0x01
  | .suspect => 0x02

/-- The code of an attention mode (10.3). -/
def attnModeCode : AttnMode → Byte
  | .level => 0x00
  | .pulse => 0x01

/-- The code of an attention line (10.3). -/
def attnLineCode : AttnLine → Byte
  | .released => 0x00
  | .driven => 0x01

/-- The code of a frame-error cause (10.3). -/
def causeCode : FrameCause → Byte
  | .none => 0x00
  | .marker => 0x01
  | .length => 0x02
  | .crc => 0x03
  | .timeout => 0x04
  | .busy => 0x05
  | .notReady => 0x06

/-- The code of a profile source (10.3). -/
def sourceCode : ProfileSource → Byte
  | .image => 0x00
  | .defaultAbsent => 0x01
  | .defaultBad => 0x02

/-- The code of a port state in a RESET_PORT response and in bits 7 to 6 of the status byte (10.2, 10.3). A port that is
OFFLINE forms no status byte (R167). -/
def portStateCode : PortState → Byte
  | .notReady => 0x00
  | .idle => 0x01
  | .working _ => 0x02
  | .done _ => 0x03
  | .offline => 0x00

/-- The code of a truth value in a payload (10.4). -/
def boolCode (b : Bool) : Byte := if b then 0x01 else 0x00

/-- The code of a step policy (10.5). -/
def policyCode : StepPolicy → Byte
  | .fireLate => 0x00
  | .skip => 0x01

/-- The code of an end cause (10.6). -/
def endCauseCode : EndCause → Byte
  | .fired => 0x01
  | .skipped => 0x02
  | .exhausted => 0x03
  | .cancelled => 0x04

/-- The code of the reason of a terminal pending (10.6). -/
def terminalCode : Reason → Byte
  | .fired => 0x01
  | .skipped => 0x02
  | .exhausted => 0x03

/-- The number of a strobe line. -/
def lineCode : Line → Byte
  | .l0 => 0x00
  | .l1 => 0x01
  | .l2 => 0x02
  | .l3 => 0x03

/-- The strobe line that a code names, if any (10.5). -/
def lineOfCode (x : Byte) : Option Line :=
  if x = 0x00 then some .l0
  else if x = 0x01 then some .l1
  else if x = 0x02 then some .l2
  else if x = 0x03 then some .l3
  else none

/-! The command codes (10.3). -/

/-- The code of IDENTIFY. -/
def codeIdentify : Byte := 0x01
/-- The code of SELF_RESET. -/
def codeSelfReset : Byte := 0x02
/-- The code of READ_TIME. -/
def codeReadTime : Byte := 0x10
/-- The code of READ_CALENDAR. -/
def codeReadCalendar : Byte := 0x11
/-- The code of CLAIM_AUTHORITY. -/
def codeClaimAuthority : Byte := 0x12
/-- The code of RELEASE_AUTHORITY. -/
def codeReleaseAuthority : Byte := 0x13
/-- The code of STEP_TIME. -/
def codeStepTime : Byte := 0x14
/-- The code of SLEW_TIME. -/
def codeSlewTime : Byte := 0x15
/-- The code of SET_TRIM. -/
def codeSetTrim : Byte := 0x16
/-- The code of CREATE_ENTRY. -/
def codeCreateEntry : Byte := 0x20
/-- The code of CANCEL_ENTRY. -/
def codeCancelEntry : Byte := 0x21
/-- The code of QUERY_ENTRY. -/
def codeQueryEntry : Byte := 0x22
/-- The code of LIST_OWN. -/
def codeListOwn : Byte := 0x23
/-- The code of TAKE_NOTICES. -/
def codeTakeNotices : Byte := 0x30
/-- The code of ACK_NOTICES. -/
def codeAckNotices : Byte := 0x31
/-- The code of READ_FLAGS. -/
def codeReadFlags : Byte := 0x40
/-- The code of CLEAR_FLAGS. -/
def codeClearFlags : Byte := 0x41
/-- The code of SET_ATTENTION. -/
def codeSetAttention : Byte := 0x42
/-- The code of READ_PROFILE. -/
def codeReadProfile : Byte := 0x50
/-- The code of SET_PROFILE. -/
def codeSetProfile : Byte := 0x51
/-- The code of SET_STROBE_MAP. -/
def codeSetStrobeMap : Byte := 0x52
/-- The code of RESET_PORT. -/
def codeResetPort : Byte := 0x53

/-- The request payload length that 10.3 gives for a code, if the code is one of the 22 commands (R177). -/
def payloadLength (code : Byte) : Option Nat :=
  if code = codeIdentify then some 0
  else if code = codeSelfReset then some 0
  else if code = codeReadTime then some 0
  else if code = codeReadCalendar then some 0
  else if code = codeClaimAuthority then some 2
  else if code = codeReleaseAuthority then some 0
  else if code = codeStepTime then some 8
  else if code = codeSlewTime then some 4
  else if code = codeSetTrim then some 1
  else if code = codeCreateEntry then some 25
  else if code = codeCancelEntry then some 1
  else if code = codeQueryEntry then some 1
  else if code = codeListOwn then some 0
  else if code = codeTakeNotices then some 1
  else if code = codeAckNotices then some 2
  else if code = codeReadFlags then some 0
  else if code = codeClearFlags then some 2
  else if code = codeSetAttention then some 3
  else if code = codeReadProfile then some 1
  else if code = codeSetProfile then some 7
  else if code = codeSetStrobeMap then some 4
  else if code = codeResetPort then some 1
  else none

end Sys2Proof.Machine
end

