-- ==== Sys2Proof/Machine/Calendar.lean ====
section
/-! DEFINITION. The calendar view of a timeline value and the search for the next match of a calendar pattern
(R7, R8, R35 to R37). -/

namespace Sys2Proof.Machine

/-- The seconds of a timeline value (R4). -/
def secondsOf (t : Time) : Nat := t.toNat / 4096

/-- The ticks of a timeline value (R4). -/
def ticksOf (t : Time) : Nat := t.toNat % 4096

/-- The timeline value of a count of timeline ticks in range (R4). -/
def timeOf (n : Nat) : Time := BitVec.ofNat 44 n

/-- The timeline value that a count of ticks names, if it lies within the range (R4, R6). -/
def timeInRange (n : Nat) : Option Time := if n ≤ lastTime.toNat then some (timeOf n) else none

/-- A leap year of the range 2001 to 2137: divisible by 4, except 2100 (R8). -/
def isLeap (y : Nat) : Bool := y % 4 == 0 && y != 2100

/-- The days of a year (R8). -/
def yearDays (y : Nat) : Nat := if isLeap y then 366 else 365

/-- The days of a month (R8). -/
def monthDays (y m : Nat) : Nat :=
  match m with
  | 2 => if isLeap y then 29 else 28
  | 4 => 30
  | 6 => 30
  | 9 => 30
  | 11 => 30
  | _ => 31

/-- Count whole years off a number of days, from year `y` on, at most `fuel` of them (R8). -/
def splitYears : Nat → Nat → Nat → Nat × Nat
  | 0, y, d => (y, d)
  | fuel + 1, y, d => if d < yearDays y then (y, d) else splitYears fuel (y + 1) (d - yearDays y)

/-- Count whole months of year `y` off a number of days, from month `m` on, at most `fuel` of them (R8). -/
def splitMonths (y : Nat) : Nat → Nat → Nat → Nat × Nat
  | 0, m, d => (m, d)
  | fuel + 1, m, d => if d < monthDays y m then (m, d) else splitMonths y fuel (m + 1) (d - monthDays y m)

/-- A date: year, month and day of the month from 1 (R8). -/
structure Date where
  year : Nat
  month : Nat
  day : Nat
  deriving DecidableEq, Repr

/-- The date of a day number counted from 2001-01-01 (R8). -/
def dateOf (dayNumber : Nat) : Date :=
  let (y, d) := splitYears 136 2001 dayNumber
  let (m, k) := splitMonths y 11 1 d
  ⟨y, m, k + 1⟩

/-- The weekday of a day number, Monday = 1 (R7). -/
def weekdayOf (dayNumber : Nat) : Nat := dayNumber % 7 + 1

/-- The calendar view of a timeline value (R7). -/
structure CalendarView where
  date : Date
  weekday : Nat
  hour : Nat
  minute : Nat
  second : Nat
  deriving DecidableEq, Repr

/-- The calendar view (R7, R8). -/
def calendarView (t : Time) : CalendarView :=
  let day := secondsOf t / 86400
  let tod := secondsOf t % 86400
  ⟨dateOf day, weekdayOf day, tod / 3600, tod % 3600 / 60, tod % 60⟩

/-! ### Matching -/

/-- A numeric field is satisfied by its equal, ANY by every value (R35). -/
def fieldMatches (f : Option Nat) (x : Nat) : Bool :=
  match f with
  | none => true
  | some y => y == x

/-- The day selector is satisfied by a day with this day of the month and this weekday (R35). -/
def daySelected (sel : DaySelector) (dayOfMonth weekday : Nat) : Bool :=
  match sel with
  | .any => true
  | .monthday d => d == dayOfMonth
  | .weekdays s => s.getLsbD (weekday - 1)

/-- The month field and the day selector are satisfied by a day number (R35). -/
def dayMatches (pat : Pattern) (dayNumber : Nat) : Bool :=
  fieldMatches pat.month (dateOf dayNumber).month &&
    daySelected pat.day (dateOf dayNumber).day (weekdayOf dayNumber)

/-- The hour, minute and second fields are satisfied by a second of the day (R35). -/
def timeOfDayMatches (pat : Pattern) (tod : Nat) : Bool :=
  fieldMatches pat.hour (tod / 3600) && fieldMatches pat.minute (tod % 3600 / 60) &&
    fieldMatches pat.second (tod % 60)

/-- A timeline value matches a pattern (R35). -/
def patternMatches (pat : Pattern) (t : Time) : Bool :=
  ticksOf t == 0 && dayMatches pat (secondsOf t / 86400) && timeOfDayMatches pat (secondsOf t % 86400)

/-! ### The next match -/

/-- The least value of a field from `lo` on and below `bound` (R35, R37). -/
def fieldFrom (f : Option Nat) (lo bound : Nat) : Option Nat :=
  match f with
  | none => if lo < bound then some lo else none
  | some x => if lo ≤ x && x < bound then some x else none

/-- The least second of the day at or after `t0` that the hour, minute and second fields accept (R37): in the minute of
`t0`, else in a later minute of its hour, else in a later hour. -/
def nextTimeOfDay (pat : Pattern) (t0 : Nat) : Option Nat :=
  let h0 := t0 / 3600
  let m0 := t0 % 3600 / 60
  let s0 := t0 % 60
  let sameMinute :=
    if fieldMatches pat.hour h0 && fieldMatches pat.minute m0 then
      (fieldFrom pat.second s0 60).map fun s => h0 * 3600 + m0 * 60 + s
    else none
  let sameHour :=
    if fieldMatches pat.hour h0 then
      (fieldFrom pat.minute (m0 + 1) 60).bind fun m =>
        (fieldFrom pat.second 0 60).map fun s => h0 * 3600 + m * 60 + s
    else none
  let later :=
    (fieldFrom pat.hour (h0 + 1) 24).bind fun h =>
      (fieldFrom pat.minute 0 60).bind fun m =>
        (fieldFrom pat.second 0 60).map fun s => h * 3600 + m * 60 + s
  sameMinute.or (sameHour.or later)

/-- The first day number from `d` on, among `fuel` of them, that the month field and the day selector accept (R37). -/
def findDay (pat : Pattern) : Nat → Nat → Option Nat
  | 0, _ => none
  | fuel + 1, d => if dayMatches pat d then some d else findDay pat fuel (d + 1)

/-- The day number of the last timeline value (R8). -/
def lastDay : Nat := 49710

/-- The second count of the next match at or after the second `n0`, which may lie past the range end on the last day. -/
def nextMatchSecond (pat : Pattern) (n0 : Nat) : Option Nat :=
  let d0 := n0 / 86400
  let today :=
    if dayMatches pat d0 then (nextTimeOfDay pat (n0 % 86400)).map fun tod => d0 * 86400 + tod else none
  let later :=
    (findDay pat (lastDay - d0) (d0 + 1)).bind fun d =>
      (nextTimeOfDay pat 0).map fun tod => d * 86400 + tod
  today.or later

/-- The next match of a pattern after a timeline value: the least match strictly after it, within the range (R37). A
match has tick field 0, so the search begins at the second after that of `v`, whatever the ticks of `v`. -/
def nextMatch (pat : Pattern) (v : Time) : Option Time :=
  (nextMatchSecond pat (secondsOf v + 1)).bind fun n => timeInRange (n * 4096)

/-- A pattern that cannot match in any year (R36). -/
def neverMatches (pat : Pattern) : Bool :=
  match pat.day, pat.month with
  | .monthday d, some m =>
    (d == 31 && (m == 4 || m == 6 || m == 9 || m == 11)) || ((d == 30 || d == 31) && m == 2)
  | _, _ => false

end Sys2Proof.Machine
end

