-- ==== Sys2Proof/Machine/Operands.lean ====
section
/-! DEFINITION. The bytes of frames, payloads and records: how they are read and how they are formed
(10_frame_and_record_layouts.md). -/

namespace Sys2Proof.Machine

/-! ### Numbers -/

/-- `n` bytes of a number, most significant byte first (R198). -/
def toBytes : Nat → Nat → List Byte
  | 0, _ => []
  | n + 1, x => BitVec.ofNat 8 (x / 256 ^ n) :: toBytes n x

/-- The number that bytes hold, most significant byte first (R198). -/
def ofBytes (l : List Byte) : Nat := l.foldl (fun acc x => acc * 256 + x.toNat) 0

/-- `n` bytes of a signed number, two's complement (R198). -/
def signedBytes (n : Nat) (x : Int) : List Byte := toBytes n (x % (256 ^ n : Nat)).toNat

/-- The signed number that `n` bytes hold, two's complement (R198). -/
def ofSignedBytes (l : List Byte) : Int :=
  let x := ofBytes l
  if 2 * x < 256 ^ l.length then (x : Int) else (x : Int) - (256 ^ l.length : Nat)

/-- The field of `n` bytes at an offset of a payload. -/
def field (payload : List Byte) (offset n : Nat) : List Byte := (payload.drop offset).take n

/-- The unsigned number in the field of `n` bytes at an offset of a payload. -/
def numField (payload : List Byte) (offset n : Nat) : Nat := ofBytes (field payload offset n)

/-- The byte at an offset of a payload. -/
def byteAt (payload : List Byte) (offset : Nat) : Byte := payload.getD offset 0

/-- The bytes of a timeline value: seconds in four, then ticks in two (R198). -/
def timeBytes (t : Time) : List Byte := toBytes 4 (secondsOf t) ++ toBytes 2 (ticksOf t)

/-- An absent field of `n` bytes: every byte FFh (R200). -/
def absentBytes (n : Nat) : List Byte := List.replicate n 0xFF

/-- The timeline value in the six bytes at an offset, if its tick field is at most 4095 (R198, R31, R33). -/
def timeField (payload : List Byte) (offset : Nat) : Option Time :=
  let ticks := numField payload (offset + 4) 2
  if ticks ≤ 4095 then some (timeOf (numField payload offset 4 * 4096 + ticks)) else none

/-- A quantity of 40 bits at an offset that is at least `lo` (R32 to R34). Five bytes hold at most 2^40 − 1. -/
def quantityField (payload : List Byte) (offset lo : Nat) : Option (BitVec 40) :=
  let x := numField payload offset 5
  if lo ≤ x then some (BitVec.ofNat 40 x) else none

/-! ### CRC-8 -/

/-- Shift the register left `n` times, adding 07h after each shift in which a 1 left the top bit (R199). -/
def crcShift : Nat → Byte → Byte
  | 0, r => r
  | n + 1, r => crcShift n (if r.msb then (r <<< 1) ^^^ 0x07 else r <<< 1)

/-- The check byte of the covered bytes (R199). -/
def crc8 (covered : List Byte) : Byte := covered.foldl (fun r x => crcShift 8 (r ^^^ x)) 0

/-! ### Frames -/

/-- The bytes of a REQUEST frame (R170, 10.2). -/
def requestFrame (code seq : Byte) (payload : List Byte) : List Byte :=
  let covered := code :: seq :: BitVec.ofNat 8 payload.length :: payload
  requestMarker :: covered ++ [crc8 covered]

/-- Nothing of a transaction has been received. -/
def noneReceived : Received := ⟨[], 0⟩

/-- What a receiver stores of the complete bytes of a transaction: of a COLLECT the marker alone (R175), and otherwise the
first 53 (R170). That a transaction with any other first byte is stored like a REQUEST is the model's choice (log 6). -/
def storedOf (bytes : List Byte) : List Byte :=
  if bytes.head? = some collectMarker then bytes.take 1 else bytes.take maxStored

/-- What has been received once the host has clocked these further complete bytes: every byte is counted, and what is to be
stored of the whole transaction is stored (R165, R170, R175). -/
def receiveBytes (r : Received) (bytes : List Byte) : Received := ⟨storedOf (r.stored ++ bytes), r.count + bytes.length⟩

/-- What the judgement of a frame's structure finds (R171). -/
inductive FrameVerdict where
  | error (cause : FrameCause)
  | collect
  | request (code seq : Byte) (payload : List Byte)
  deriving DecidableEq, Repr

/-- The judgement of a frame's structure at the release of select, from the bytes stored, the number of complete bytes, and
the number of bits of an incomplete byte after them: marker, then length, then check byte (R171). -/
def judgeReceived (r : Received) (bits : Fin 8) : FrameVerdict :=
  match r.stored with
  | [] => .error .marker
  | marker :: rest =>
    if marker = collectMarker then .collect
    else if marker ≠ requestMarker then .error .marker
    else
      match rest with
      | code :: seq :: len :: tail =>
        if bits ≠ 0 ∨ maxPayload < len.toNat ∨ r.count ≠ len.toNat + 5 then .error .length
        else
          let payload := tail.take len.toNat
          if byteAt tail len.toNat = crc8 (code :: seq :: len :: payload) then .request code seq payload
          else .error .crc
      | _ => .error .length

/-- The judgement of a transaction of these complete bytes and the bits of an incomplete one (R170, R171). -/
def judgeFrame (bytes : List Byte) (bits : Fin 8) : FrameVerdict := judgeReceived (receiveBytes noneReceived bytes) bits

/-- The collect reply of a port state: kind, response record and check byte (R175, R199). -/
def collectReply (st : PortState) : List Byte :=
  let covered : List Byte :=
    match st with
    | .working _ => [0x01]
    | .done r =>
      [0x02, r.code, r.seq, resultCode r.result, BitVec.ofNat 8 r.payload.length] ++ r.payload
    | _ => [0x00]
  covered ++ [crc8 covered]

/-- The byte that the port shifts out at a place of a transaction with this first byte: the status byte during the first;
then for a COLLECT the reply, and 00h after it; and 00h for a REQUEST (R166, R170, R175). DESIGN CHOICE (log 27): after any
other first byte, for which the rules give nothing beyond the status byte, the further bytes are free values. -/
def outputByte (snap : Snapshot) (marker : Byte) (place : Nat) : Byte :=
  match place with
  | 0 => snap.status
  | i + 1 =>
    if marker = collectMarker then snap.reply.getD i 0
    else if marker = requestMarker then 0
    else Config.otherMarkerOut marker i

/-- The bytes that the port has shifted out for what it has received: one for every complete byte (R165, R166). -/
def receivedOut (snap : Snapshot) (r : Received) : List Byte :=
  match r.stored with
  | [] => []
  | marker :: _ => (List.range r.count).map (outputByte snap marker)

/-- The bytes that the port shifts out in a transaction of these bytes (R166, R170, R175). -/
def shiftedOut (snap : Snapshot) (bytes : List Byte) : List Byte := receivedOut snap (receiveBytes noneReceived bytes)

/-! ### CREATE_ENTRY -/

/-- A code byte of two values, 00h and 01h. -/
def twoCodes {α : Type} (x : Byte) (zero one : α) : Option α :=
  if x = 0x00 then some zero else if x = 0x01 then some one else none

/-- The kind of an entry (10.5). -/
inductive Kind where
  | oneShot | periodic | calendar
  deriving DecidableEq, Repr

/-- The reference of an entry (10.5). -/
inductive Reference where
  | wall | elapsed
  deriving DecidableEq, Repr

/-- The kind that a code names (10.5). -/
def kindOfCode (x : Byte) : Option Kind :=
  if x = 0x00 then some .oneShot
  else if x = 0x01 then some .periodic
  else if x = 0x02 then some .calendar
  else none

/-- The code of a kind (10.5). -/
def kindCode : Kind → Byte
  | .oneShot => 0x00
  | .periodic => 0x01
  | .calendar => 0x02

/-- The code of a reference (10.5). -/
def referenceCode : Reference → Byte
  | .wall => 0x00
  | .elapsed => 0x01

/-- The kind of a schedule (R30). -/
def Schedule.kind : Schedule → Kind
  | .oneShotWall => .oneShot
  | .oneShotElapsed => .oneShot
  | .periodicWall _ _ => .periodic
  | .periodicElapsed _ => .periodic
  | .calendar _ => .calendar

/-- The reference of a schedule (R30). -/
def Schedule.reference : Schedule → Reference
  | .oneShotWall => .wall
  | .oneShotElapsed => .elapsed
  | .periodicWall _ _ => .wall
  | .periodicElapsed _ => .elapsed
  | .calendar _ => .wall

/-- The strobe action of a CREATE_ENTRY payload: line FFh is none; else a line 0 to 3 and a width 1 to 255 (R44 check 1,
R200). The outer `none` is a refused code. -/
def strobeField (payload : List Byte) : Option (Option StrobeAction) :=
  if byteAt payload 7 = 0xFF then some none
  else
    match lineOfCode (byteAt payload 7) with
    | none => none
    | some l => if byteAt payload 8 = 0 then none else some (some ⟨l, byteAt payload 8⟩)

/-- A pattern byte: FFh is ANY, else a value from `lo` to `hi` (10.6). -/
def patternField (x : Byte) (lo hi : Nat) : Option (Option Nat) :=
  if x = 0xFF then some none
  else if lo ≤ x.toNat ∧ x.toNat ≤ hi then some (some x.toNat)
  else none

/-- The day selector from its kind byte and value byte (10.6, R35). -/
def daySelectorField (kind value : Byte) : Option DaySelector :=
  if kind = 0x00 then some .any
  else if kind = 0x01 then
    (if 1 ≤ value.toNat ∧ value.toNat ≤ 31 then some (.monthday value.toNat) else none)
  else if kind = 0x02 then
    (if value ≠ 0 ∧ value.msb = false then some (.weekdays (value.setWidth 7)) else none)
  else none

/-- The calendar pattern in the six bytes at an offset (10.6, R35). -/
def patternAt (payload : List Byte) (offset : Nat) : Option Pattern :=
  match patternField (byteAt payload offset) 0 59, patternField (byteAt payload (offset + 1)) 0 59,
      patternField (byteAt payload (offset + 2)) 0 23, patternField (byteAt payload (offset + 3)) 1 12,
      daySelectorField (byteAt payload (offset + 4)) (byteAt payload (offset + 5)) with
  | some s, some m, some h, some mo, some d => some ⟨s, m, h, mo, d⟩
  | _, _, _, _, _ => none

/-- The code fields of a CREATE_ENTRY (R44 check 1). -/
structure CreateCodes where
  kind : Kind
  reference : Reference
  policy : StepPolicy
  notify : Bool
  persist : Bool
  strobe : Option StrobeAction
  deriving DecidableEq, Repr

/-- Check 1 of R44: kind, reference, step policy, notify, persist and the strobe action hold defined codes. -/
def createCodes (payload : List Byte) : Option CreateCodes :=
  match kindOfCode (byteAt payload 2), twoCodes (byteAt payload 3) Reference.wall .elapsed,
      twoCodes (byteAt payload 4) StepPolicy.fireLate .skip, twoCodes (byteAt payload 5) false true,
      twoCodes (byteAt payload 6) false true, strobeField payload with
  | some k, some r, some pol, some n, some pe, some st => some ⟨k, r, pol, n, pe, st⟩
  | _, _, _, _, _, _ => none

/-- Check 2 of R44: CALENDAR is WALL, and an entry has a notice or a strobe action (R30). -/
def createCombination (c : CreateCodes) : Bool :=
  !(c.kind == .calendar && c.reference == .elapsed) && (c.notify || c.strobe.isSome)

/-- The timing fields that a combination uses (R30). -/
inductive Timing where
  | oneShotWall (due : Time)
  | oneShotElapsed (delay : BitVec 40)
  | periodicWall (anchor : Time) (period : BitVec 40)
  | periodicElapsed (delay period : BitVec 40)
  | calendar (pattern : Pattern)
  deriving DecidableEq, Repr

/-- Check 3 of R44: the timing fields used for the kind and reference lie in their ranges (R31 to R35). The timing block
begins at offset 9 (10.5). -/
def timingFields (k : Kind) (r : Reference) (payload : List Byte) : Option Timing :=
  match k, r with
  | .oneShot, .wall => (timeField payload 9).map .oneShotWall
  | .oneShot, .elapsed => (quantityField payload 15 1).map .oneShotElapsed
  | .periodic, .wall =>
    (timeField payload 9).bind fun anchor => (quantityField payload 20 16).map fun per => .periodicWall anchor per
  | .periodic, .elapsed =>
    (quantityField payload 15 1).bind fun delay => (quantityField payload 20 16).map fun per => .periodicElapsed delay per
  | .calendar, _ => (patternAt payload 9).map .calendar

/-- The schedule that is recorded for the timing fields (R29, R30). -/
def Timing.schedule : Timing → Schedule
  | .oneShotWall _ => .oneShotWall
  | .oneShotElapsed _ => .oneShotElapsed
  | .periodicWall anchor per => .periodicWall per anchor
  | .periodicElapsed _ per => .periodicElapsed per
  | .calendar pat => .calendar pat

/-- The least point of the grid anchor + k × period strictly after a value, as a count of ticks: the anchor if it lies
after the value, else the anchor plus one more period than the whole periods that have passed (R33). -/
def gridAfter (anchor period v : Nat) : Nat :=
  if v < anchor then anchor else anchor + ((v - anchor) / period + 1) * period

/-- The first due of an entry created at `now`, if it lies within the range (R31 to R34, R38). -/
def firstDue (now : Time) : Timing → Option Time
  | .oneShotWall due => some due
  | .oneShotElapsed delay => timeInRange (now.toNat + delay.toNat)
  | .periodicWall anchor per => timeInRange (gridAfter anchor.toNat per.toNat now.toNat)
  | .periodicElapsed delay _ => timeInRange (now.toNat + delay.toNat)
  | .calendar pat => nextMatch pat now

/-! ### Records sent to the host -/

/-- A pattern byte as it is sent (10.6). -/
def patternByte (f : Option Nat) : Byte :=
  match f with
  | none => 0xFF
  | some x => BitVec.ofNat 8 x

/-- The six bytes of a pattern (10.6). The selector value of ANY is an unused byte, sent as 0 (R198; DEDUCED, log 16). -/
def patternBytes (pat : Pattern) : List Byte :=
  [patternByte pat.second, patternByte pat.minute, patternByte pat.hour, patternByte pat.month] ++
    match pat.day with
    | .any => [0x00, 0x00]
    | .monthday d => [0x01, BitVec.ofNat 8 d]
    | .weekdays s => [0x02, s.setWidth 8]

/-- Byte 3 of a notice record: reason and marks (10.6). -/
def reasonMarksByte (r : Report) : Byte :=
  (match r.reason with
    | .fired => 0x00
    | .skipped => 0x40
    | .exhausted => 0x80) |||
  (if r.marks.saturated then 0x04 else 0x00) ||| (if r.marks.strobeSuppressed then 0x02 else 0x00) |||
  (if r.marks.holdover then 0x01 else 0x00)

/-- The notice record of 24 bytes (10.6). -/
def noticeBytes (n : Notice) : List Byte :=
  toBytes 2 n.seq.toNat ++ [BitVec.ofNat 8 n.handle.val, reasonMarksByte n.report] ++ toBytes 2 n.tag.toNat ++
    toBytes 2 n.report.fires.toNat ++ toBytes 2 n.report.late.toNat ++ toBytes 2 n.report.missed.toNat ++
    timeBytes n.report.first ++ timeBytes n.report.last

/-- The fields of an entry record that depend on the kind and reference: period, anchor, pattern, missed accumulator
(10.6, R200). -/
def scheduleBytes (e : Entry) : List Byte :=
  match e.schedule with
  | .oneShotWall => absentBytes 5 ++ absentBytes 6 ++ absentBytes 6 ++ absentBytes 2
  | .oneShotElapsed => absentBytes 5 ++ absentBytes 6 ++ absentBytes 6 ++ absentBytes 2
  | .periodicWall per anchor =>
    toBytes 5 per.toNat ++ timeBytes anchor ++ absentBytes 6 ++ toBytes 2 e.missed.toNat
  | .periodicElapsed per => toBytes 5 per.toNat ++ absentBytes 6 ++ absentBytes 6 ++ toBytes 2 e.missed.toNat
  | .calendar pat => absentBytes 5 ++ absentBytes 6 ++ patternBytes pat ++ toBytes 2 e.missed.toNat

/-- The entry record of 43 bytes that QUERY_ENTRY returns, with the number of notices in the owner's queue that carry the
handle (10.6, R53). -/
def entryBytes (h : Handle) (e : Entry) (inQueue : Nat) : List Byte :=
  [BitVec.ofNat 8 h.val, portCode e.owner] ++ toBytes 2 e.tag.toNat ++
    [kindCode e.schedule.kind, referenceCode e.schedule.reference, policyCode e.policy,
      match e.status with
      | .armed _ => 0x01
      | .ended _ => 0x02,
      boolCode e.notify, boolCode e.persist] ++
    (match e.strobe with
      | none => absentBytes 2
      | some a => [lineCode a.line, a.width]) ++
    (match e.status with
      | .armed due => timeBytes due
      | .ended _ => absentBytes 6) ++
    scheduleBytes e ++
    [match e.status with
      | .armed _ => 0xFF
      | .ended c => endCauseCode c,
      BitVec.ofNat 8 inQueue, boolCode e.summary.isSome] ++
    (match e.summary with
      | none => absentBytes 2
      | some r => toBytes 2 r.fires.toNat) ++
    [match e.terminal with
      | none => 0xFF
      | some r => terminalCode r.reason]

/-! ### Profiles and the profile image -/

/-- The six bytes of a profile record (10.7). -/
def profileBytes (r : Profile) : List Byte :=
  [(if r.admin then 0x01 else 0x00) ||| (if r.maySteer then 0x02 else 0x00)] ++ toBytes 2 r.maxLease.toNat ++
    [r.base, r.limit, r.quota]

/-- The profile record in the six bytes at an offset, if its attributes are defined and its fields lie in their ranges
(R152 check 1, R162 check 4). -/
def profileAt (payload : List Byte) (offset : Nat) : Option Profile :=
  let attributes := byteAt payload offset
  let maxLease := numField payload (offset + 1) 2
  let base := byteAt payload (offset + 3)
  let limit := byteAt payload (offset + 4)
  let quota := byteAt payload (offset + 5)
  if attributes &&& 0xFC = 0 ∧ 1 ≤ maxLease ∧ maxLease ≤ 3600 ∧ base.toNat ≤ 95 ∧ limit.toNat ≤ 95 ∧
      quota.toNat ≤ 96 then
    some ⟨attributes.getLsbD 0, attributes.getLsbD 1, BitVec.ofNat 16 maxLease, base, limit, quota⟩
  else none

/-- The owner code of a strobe-map byte (10.7). -/
def strobeOwnerCode : Option Port → Byte
  | none => 0x00
  | some .a => 0x01
  | some .b => 0x02
  | some .c => 0x03
  | some .d => 0x04

/-- A strobe-map byte (10.7). -/
def strobeByte (r : StrobeRecord) : Byte :=
  (match r.polarity with
    | .activeHigh => 0x00
    | .activeLow => 0x80) ||| strobeOwnerCode r.owner

/-- The strobe record of a strobe-map byte, if bits 6 to 3 are clear and the owner is defined (10.7). -/
def strobeRecordOf (x : Byte) : Option StrobeRecord :=
  let polarity : Polarity := if x.msb then .activeLow else .activeHigh
  let low := x &&& 0x7F
  if low = 0x00 then some ⟨none, polarity⟩
  else if low = 0x01 then some ⟨some .a, polarity⟩
  else if low = 0x02 then some ⟨some .b, polarity⟩
  else if low = 0x03 then some ⟨some .c, polarity⟩
  else if low = 0x04 then some ⟨some .d, polarity⟩
  else none

/-- The strobe map in the four bytes at an offset (10.7, R155). -/
def strobeMapAt (payload : List Byte) (offset : Nat) : Option (PerLine StrobeRecord) :=
  match strobeRecordOf (byteAt payload offset), strobeRecordOf (byteAt payload (offset + 1)),
      strobeRecordOf (byteAt payload (offset + 2)), strobeRecordOf (byteAt payload (offset + 3)) with
  | some a, some b, some c, some d => some ⟨a, b, c, d⟩
  | _, _, _, _ => none

/-- The four bytes of a strobe map (10.7). -/
def strobeMapBytes (m : PerLine StrobeRecord) : List Byte :=
  [strobeByte m.l0, strobeByte m.l1, strobeByte m.l2, strobeByte m.l3]

/-- The profile table in the 24 bytes at an offset (10.7). -/
def profileTableAt (image : List Byte) (offset : Nat) : Option (PerPort Profile) :=
  match profileAt image offset, profileAt image (offset + 6), profileAt image (offset + 12),
      profileAt image (offset + 18) with
  | some a, some b, some c, some d => some ⟨a, b, c, d⟩
  | _, _, _, _ => none

/-- At least one record of a profile table carries ADMIN (R149). -/
def someAdmin (t : PerPort Profile) : Bool := t.a.admin || t.b.admin || t.c.admin || t.d.admin

/-- The tables of a profile image that passes the five checks of R162, in order: marker, version, sum, records, ADMIN. -/
def judgeImage (image : List Byte) : Option (PerPort Profile × PerLine StrobeRecord) :=
  if image.length ≠ 33 then none
  else if ¬(byteAt image 0 = 0x43 ∧ byteAt image 1 = 0x54) then none
  else if byteAt image 2 ≠ 0x01 then none
  else if ((image.take 31).map (·.toNat)).sum % 65536 ≠ numField image 31 2 then none
  else
    match profileTableAt image 3, strobeMapAt image 27 with
    | some t, some m => if someAdmin t then some (t, m) else none
    | _, _ => none

end Sys2Proof.Machine
end

