-- ==== Sys2Proof/Machine/Flags.lean ====
section
/-! DEFINITION. The flags of a port, its NOTICE source, its attention condition and the attention line that follows it
(R104, R127 to R138). -/

namespace Sys2Proof.Machine

/-- The nine flags of a port (R127). -/
inductive Flag where
  | leaseLost | timeAdjusted | validity | resumed | restarted | portReset | frame | supply | profile
  deriving DecidableEq, Repr

/-- The bit of a flag in the flag set (10.3). -/
def flagIndex : Flag → Nat
  | .leaseLost => 0
  | .timeAdjusted => 1
  | .validity => 2
  | .resumed => 3
  | .restarted => 4
  | .portReset => 5
  | .frame => 6
  | .supply => 7
  | .profile => 8

/-- The flag set that holds one flag alone (10.3). -/
def flagBit (f : Flag) : BitVec 9 := 1#9 <<< flagIndex f

/-- The NOTICE source of a port: its queue holds an UNDELIVERED notice (R104). -/
def noticeSource (s : State) (p : Port) : Bool := (s.queues.get p).notices.any fun n => !n.delivered

/-- The ten attention sources of a port, NOTICE in bit 9 (R132, 10.3). -/
def attnSources (s : State) (p : Port) : BitVec 10 :=
  (BitVec.ofBool (noticeSource s p) ++ (s.attn.get p).flags : BitVec (1 + 9))

/-- The attention condition of a port: an enabled source is true (R133). -/
def attnCondition (s : State) (p : Port) : Bool := attnSources s p &&& (s.attn.get p).enables != 0

/-- The FRAME flag of a port. -/
def frameFlag (s : State) (p : Port) : Bool := (s.attn.get p).flags.getLsbD 6

/-- The supply state is MAIN (R186). -/
def inMain (s : State) : Bool := s.spm.supply == .main

/-- The ASU state of a port with its line released and no pulse (R137, R138). -/
def releasedLine (a : Attn) : Attn := { a with line := .released, pulseEnd := none }

/-- The ASU state of a port with a pulse of 64 oscillator ticks started (R136). -/
def startedPulse (mono : Mono) (a : Attn) : Attn :=
  { a with line := .driven, pulseEnd := some (mono + attnPulseTicks) }

/-- The ASU state of a port in mode LEVEL: the line follows the condition and no pulse end is kept (R135). -/
def levelLine (condition : Bool) (a : Attn) : Attn :=
  { a with line := if condition then .driven else .released, pulseEnd := none }

/-- How the line of a port answers an event that took the condition from `before` to `after`, in MAIN: in LEVEL it
follows (R135); in PULSE a rise starts a pulse (R136), a fall ends it (R137), and nothing else acts. -/
def answeredLine (mono : Mono) (before after : Bool) (a : Attn) : Attn :=
  match a.mode with
  | .level => levelLine after a
  | .pulse =>
    if !before && after then startedPulse mono a
    else if before && !after then releasedLine a
    else a

/-- Form the attention condition of a port again after an event that left the state `s`, `before` being the condition
before the event; outside MAIN the line stays released (R133, R138). -/
def followAttention (p : Port) (before : Bool) (s : State) : State :=
  if inMain s then s.setAttn p (answeredLine s.tbu.mono before (attnCondition s p) (s.attn.get p)) else s

/-- Hand a flag to the ASU for one port: it is set, and the condition is formed again (R127, R133). -/
def handFlag (f : Flag) (p : Port) (s : State) : State :=
  let a := s.attn.get p
  followAttention p (attnCondition s p) (s.setAttn p { a with flags := a.flags ||| flagBit f })

/-- Hand a flag to the ASU for every port (R127). -/
def handFlagToAll (f : Flag) (s : State) : State := allPorts.foldl (fun s p => handFlag f p s) s

/-- Hand a flag to the ASU for every port except one (R19). -/
def handFlagToOthers (f : Flag) (except : Port) (s : State) : State :=
  allPorts.foldl (fun s p => if p = except then s else handFlag f p s) s

/-- A frame error at a port: FRAME is set and the cause replaced, in one event (R129). -/
def frameErrorAt (p : Port) (cause : FrameCause) (s : State) : State :=
  let a := s.attn.get p
  followAttention p (attnCondition s p) (s.setAttn p { a with flags := a.flags ||| flagBit .frame, cause := cause })

/-- Replace the notice queue of a port; a change of the NOTICE source reaches the attention condition in the same event
(R104, R132). -/
def replaceQueue (p : Port) (q : NoticeQueue) (s : State) : State :=
  followAttention p (attnCondition s p) (s.setQueue p q)

/-- The remaining ticks of a limit: its end minus the monotonic count, modulo 2^48 (R3, R113). -/
def remaining (endAt mono : Mono) : Mono := endAt - mono

/-- The two bytes of a flag set (10.3). -/
def flagSetBytes (x : BitVec 9) : List Byte := toBytes 2 x.toNat

/-- The two bytes of a source set (10.3). -/
def sourceSetBytes (x : BitVec 10) : List Byte := toBytes 2 x.toNat

/-- The status byte of a port (R166, 10.2). -/
def statusByte (s : State) (p : Port) : Byte :=
  (portStateCode (s.ports.get p).state <<< 6) |||
  (if attnCondition s p then 0x20 else 0x00) |||
  (if noticeSource s p then 0x10 else 0x00) |||
  (if s.lease.any (fun l => l.holder == p) then 0x08 else 0x00) |||
  (validityCode s.tbu.validity <<< 1) |||
  (if frameFlag s p then 0x01 else 0x00)

/-- The port drives its data-out pin: while select is asserted and the port is not OFFLINE. The pin is at high impedance
otherwise (R165, R167, R169, 9.8). -/
def dataOutDriven (c : PortCtl) : Bool := c.select && c.state != .offline

/-- The pin of an attention output is pulled low (6.5). -/
def attnPinLow (s : State) (p : Port) : Bool := (s.attn.get p).line == .driven

/-- The pin of a strobe output is high: the active level of its polarity while the line is PULSING, the inactive level
otherwise (R141). -/
def strobePinHigh (s : State) (l : Line) : Bool :=
  match (s.pru.strobeMap.get l).polarity, s.strobes.get l with
  | .activeHigh, .pulsing _ => true
  | .activeHigh, .idle => false
  | .activeLow, .pulsing _ => false
  | .activeLow, .idle => true

end Sys2Proof.Machine
end

