-- ==== Sys2Proof/Machine/Ops.lean ====
section
/-! DEFINITION. The shared operations over the entry store and its agenda, the strobe lines, the lease and the port
controllers. -/

namespace Sys2Proof.Machine

/-! ### The entry store and the agenda -/

/-- The record in a slot, or none for a FREE slot (R28). -/
def slot (s : State) (h : Handle) : Option Entry := s.agu.store.get h

/-- The due of an entry, present while ARMED (R28). -/
def dueOf (e : Entry) : Option Time :=
  match e.status with
  | .armed due => some due
  | .ended _ => none

/-- The entry with due `due` and handle `h` stands before another in agenda order: due ascending, and handle ascending
among equal dues (R59). -/
def agendaBefore (due : Time) (h : Handle) (otherDue : Time) (other : Handle) : Bool :=
  due < otherDue || (due == otherDue && h < other)

/-- Put a handle into an ordered list of handles at the position that its due and its number give it (R59). -/
def placeInAgenda (store : Vector (Option Entry) 96) (due : Time) (h : Handle) : List Handle → List Handle
  | [] => [h]
  | g :: rest =>
    match (store.get g).bind dueOf with
    | some d => if agendaBefore due h d g then h :: g :: rest else g :: placeInAgenda store due h rest
    | none => g :: placeInAgenda store due h rest

/-- Write a slot. The agenda follows in the same event: the handle leaves its place, and an ARMED entry takes the place
of its due (R59). -/
def putSlot (h : Handle) (x : Option Entry) (s : State) : State :=
  let store := s.agu.store.set h.val x h.isLt
  let others := s.agu.agenda.filter fun g => g != h
  let agenda :=
    match x.bind dueOf with
    | some due => placeInAgenda store due h others
    | none => others
  s.setAgu { s.agu with store := store, agenda := agenda }

/-- Change the state of an entry: ARMED with a due, or ENDED (R29, R47). -/
def setStatus (h : Handle) (st : EntryStatus) (s : State) : State :=
  match slot s h with
  | some e => putSlot h (some { e with status := st }) s
  | none => s

/-- The fields of an entry that change while its state and due stand: missed accumulator, pending summary and terminal
pending (R29). -/
structure EntryParts where
  missed : Half
  summary : Option Report
  terminal : Option Report
  deriving DecidableEq, Repr

/-- Change the missed accumulator and the pending parts of an entry; the agenda is not touched (R29, R94). -/
def updateParts (h : Handle) (f : EntryParts → EntryParts) (s : State) : State :=
  match slot s h with
  | some e =>
    let x := f ⟨e.missed, e.summary, e.terminal⟩
    s.setAgu { s.agu with
      store := s.agu.store.set h.val
        (some { e with missed := x.missed, summary := x.summary, terminal := x.terminal }) h.isLt }
  | none => s

/-- A slot is allocated to a port (R28). -/
def ownedBy (s : State) (p : Port) (h : Handle) : Bool := (slot s h).any fun e => e.owner == p

/-- The owned count of a port: its allocated slots, ARMED and ENDED alike (R28). -/
def ownedCount (s : State) (p : Port) : Nat := allHandles.countP (ownedBy s p)

/-- An entry is ENDED. -/
def isEnded (e : Entry) : Bool := (dueOf e).isNone

/-- The notices of a port's queue that carry a handle (R48, R53). -/
def noticesFor (s : State) (p : Port) (h : Handle) : Nat := (s.queues.get p).notices.countP fun n => n.handle == h

/-- An entry has a reference: a notice in its owner's queue, a pending summary or a terminal pending (R48). -/
def hasReference (s : State) (h : Handle) (e : Entry) : Bool :=
  noticesFor s e.owner h != 0 || e.summary.isSome || e.terminal.isSome

/-- Release an ENDED entry that has no reference: its slot becomes FREE (R48). -/
def releaseIfDone (h : Handle) (s : State) : State :=
  match slot s h with
  | some e => if isEnded e && !hasReference s h e then putSlot h none s else s
  | none => s

/-- Apply R48 to every entry of a port (R97). -/
def releaseEnded (p : Port) (s : State) : State :=
  allHandles.foldl (fun s h => if ownedBy s p h then releaseIfDone h s else s) s

/-! ### Strobe lines -/

/-- The later of two pulse ends, by the remaining count from the monotonic count (R142). -/
def laterEnd (mono present wanted : Mono) : Mono :=
  if remaining present mono < remaining wanted mono then wanted else present

/-- A pulse request of a firing entry: DRIVEN if the map gives the line to the entry's owner in MAIN, SUPPRESSED
otherwise (R142). The answer is `true` for SUPPRESSED; an entry without a strobe action makes no request. -/
def requestPulse (action : Option StrobeAction) (owner : Port) (s : State) : State × Bool :=
  match action with
  | none => (s, false)
  | some a =>
    if (s.pru.strobeMap.get a.line).owner = some owner ∧ inMain s = true then
      let wanted := s.tbu.mono + a.width.setWidth 48
      match s.strobes.get a.line with
      | .idle => (s.setStrobe a.line (.pulsing wanted), false)
      | .pulsing present => (s.setStrobe a.line (.pulsing (laterEnd s.tbu.mono present wanted)), false)
    else (s, true)

/-! ### The lease -/

/-- A port holds the lease (R112). -/
def isHolder (s : State) (p : Port) : Bool := s.lease.any fun l => l.holder == p

/-- The remaining lease in oscillator ticks, 0 when the holder is none (R22, R113). -/
def remainingLease (s : State) : Nat :=
  match s.lease with
  | some l => (remaining l.endAt s.tbu.mono).toNat
  | none => 0

/-- End a held lease with LEASE_LOST on the former holder: expiry and revocation (R118, R120, R122). -/
def loseLease (s : State) : State :=
  match s.lease with
  | some l => handFlag .leaseLost l.holder (s.setLease none)
  | none => s

/-! ### Port Controllers -/

/-- Complete the outstanding command of a port: the response buffer takes the response and the port is DONE. A completion
for a port that has no outstanding command does not reach it (R179). -/
def complete (p : Port) (r : Result) (payload : List Byte) (s : State) : State :=
  match (s.ports.get p).state with
  | .working c => s.setPort p { s.ports.get p with state := .done ⟨c.code, c.seq, r, payload⟩ }
  | _ => s

/-- Take a command: any response is discarded, and the command becomes outstanding, not held (R174). -/
def takeCommand (p : Port) (code seq : Byte) (payload : List Byte) (s : State) : State :=
  s.setPort p { s.ports.get p with state := .working ⟨code, seq, payload, false⟩ }

/-- Set the held mark of the outstanding command of a port (R178). -/
def markHeld (p : Port) (held : Bool) (s : State) : State :=
  match (s.ports.get p).state with
  | .working c => s.setPort p { s.ports.get p with state := .working { c with held := held } }
  | _ => s

/-- Set the port state of a port. -/
def setPortState (p : Port) (st : PortState) (s : State) : State :=
  s.setPort p { s.ports.get p with state := st }

/-- A RECEIVING frame receiver becomes DISCARDING; its frame limit end, snapshot and received bytes go (R168, R184). -/
def discardTransaction (p : Port) (s : State) : State :=
  match (s.ports.get p).receiver with
  | .receiving _ _ _ => s.setPort p { s.ports.get p with receiver := .discarding }
  | _ => s

/-- Replace a port's place on the held-command list (R81). -/
def setHeld (p : Port) (c : Option AgendaCommand) (s : State) : State :=
  s.setAgu { s.agu with held := s.agu.held.set p c }

/-- The walk record, present while REALIGNING (R69). -/
def walkOf (s : State) : Option Walk :=
  match s.agu.state with
  | .running => none
  | .realigning w => some w

/-- The AGU is RUNNING (R69). -/
def isRunning (s : State) : Bool := (walkOf s).isNone

/-- Set the agenda state (R69). -/
def setAgendaState (st : AgendaState) (s : State) : State := s.setAgu { s.agu with state := st }

/-- Response wanted becomes NO when the walk's step ceases to be an outstanding command: at a reset of the stepping port
(`some p`) and at holdover entry (`none`) (R80, R85, R87). -/
def dropWantedResponse (p : Option Port) (s : State) : State :=
  match walkOf s with
  | some w =>
    if p = none ∨ p = some w.port then setAgendaState (.realigning { w with wanted := false }) s else s
  | none => s

/-- The code of the agenda state (10.3). -/
def agendaStateCode (s : State) : Byte := if isRunning s then 0x00 else 0x01

end Sys2Proof.Machine
end

