-- ==== Sys2Proof/Machine/Notices.lean ====
section
/-! DEFINITION. The Notice Unit: combining records, taking reports, draining pending parts, the merge-back at a port
reset, and the commands TAKE_NOTICES and ACK_NOTICES (04_notices.md). -/

namespace Sys2Proof.Machine

/-- The sum of two counts of a record, at most 65535 (R91). -/
def cappedSum (x y : Half) : Half := BitVec.ofNat 16 (min (x.toNat + y.toNat) 65535)

/-- The sum of two counts exceeds 65535 (R91). -/
def sumExceeds (x y : Half) : Bool := 65535 < x.toNat + y.toNat

/-- Combine an earlier and a later FIRED record of one entry (R91). -/
def combine (e l : Report) : Report where
  reason := e.reason
  fires := cappedSum e.fires l.fires
  late := cappedSum e.late l.late
  missed := cappedSum e.missed l.missed
  first := e.first
  last := l.last
  marks :=
    { holdover := e.marks.holdover || l.marks.holdover
      strobeSuppressed := e.marks.strobeSuppressed || l.marks.strobeSuppressed
      saturated := e.marks.saturated || l.marks.saturated || sumExceeds e.fires l.fires ||
        sumExceeds e.late l.late || sumExceeds e.missed l.missed }

/-- Combine records in the order given, the first as the earliest (R107). -/
def combineAll : List Report → Option Report
  | [] => none
  | r :: rest => some (rest.foldl combine r)

/-- The UNDELIVERED FIRED notice of a handle (R88, R92). -/
def isOpenFor (h : Handle) (n : Notice) : Bool := n.handle == h && !n.delivered && n.report.reason == .fired

/-- A port's queue has room for a notice (R88). -/
def hasRoom (s : State) (p : Port) : Bool := (s.queues.get p).notices.length < queueDepth

/-- Append a notice at the back, UNDELIVERED, with the next sequence number (R88, R89). -/
def appendNotice (p : Port) (h : Handle) (tag : Half) (r : Report) (s : State) : State :=
  let q := s.queues.get p
  replaceQueue p ⟨q.notices ++ [⟨q.nextSeq, h, tag, r, false⟩], q.nextSeq + 1⟩ s

/-- Take a firing occurrence of entry `h` owned by port `p`: merge into its UNDELIVERED FIRED notice, else append, else
merge into its pending summary (R92). -/
def takeOccurrence (p : Port) (h : Handle) (tag : Half) (r : Report) (s : State) : State :=
  let q := s.queues.get p
  if q.notices.any (isOpenFor h) then
    replaceQueue p
      { q with notices := q.notices.map fun n => if isOpenFor h n then { n with report := combine n.report r } else n } s
  else if hasRoom s p then appendNotice p h tag r s
  else updateParts h (fun x => { x with summary := combineAll (x.summary.toList ++ [r]) }) s

/-- Take a terminal report of entry `h` owned by port `p`: append it, or keep it as the terminal pending (R93). -/
def takeTerminal (p : Port) (h : Handle) (tag : Half) (r : Report) (s : State) : State :=
  if hasRoom s p then appendNotice p h tag r s
  else updateParts h (fun x => { x with terminal := some r }) s

/-! ### Draining -/

/-- Step 1 of a drain at one entry: its pending summary is appended if there is room (R96). -/
def drainSummary (p : Port) (h : Handle) (s : State) : State :=
  match slot s h with
  | some e =>
    match e.summary with
    | some r =>
      if hasRoom s p then
        updateParts h (fun x => { x with summary := none }) (appendNotice p h e.tag r s)
      else s
    | none => s
  | none => s

/-- Step 2 of a drain at one entry: its terminal pending is appended if it has no pending summary and there is room
(R96). -/
def drainTerminal (p : Port) (h : Handle) (s : State) : State :=
  match slot s h with
  | some e =>
    match e.summary, e.terminal with
    | none, some r =>
      if hasRoom s p then
        updateParts h (fun x => { x with terminal := none }) (appendNotice p h e.tag r s)
      else s
    | _, _ => s
  | none => s

/-- The drain of a port: its entries in handle order, each with steps 1 and 2; a full queue takes nothing more (R96). -/
def drain (p : Port) (s : State) : State :=
  allHandles.foldl (fun s h => if ownedBy s p h then drainTerminal p h (drainSummary p h s) else s) s

/-! ### The merge-back of a port reset -/

/-- The pending parts that a persistent entry has after the merge-back: its FIRED notices in queue order and then its
present summary, combined; and its SKIPPED or EXHAUSTED notice, if one stood in the queue (R107). -/
def mergedParts (queue : List Notice) (h : Handle) (x : EntryParts) : EntryParts :=
  let own := (queue.filter fun n => n.handle == h).map (·.report)
  { missed := x.missed
    summary := combineAll ((own.filter fun r => r.reason == .fired) ++ x.summary.toList)
    terminal := (own.find? fun r => r.reason != .fired).or x.terminal }

/-- Merge the notices of a queue back into the entries of a port (R107). -/
def mergeBack (p : Port) (queue : List Notice) (s : State) : State :=
  allHandles.foldl (fun s h => if ownedBy s p h then updateParts h (mergedParts queue h) s else s) s

/-! ### TAKE_NOTICES and ACK_NOTICES -/

/-- The number of UNDELIVERED notices in a queue (R98). -/
def undeliveredCount (l : List Notice) : Nat := l.countP fun n => !n.delivered

/-- TAKE_NOTICES: return the first notices, at most max, and mark them DELIVERED (R98). -/
def runTakeNotices (p : Port) (payload : List Byte) (s : State) : State :=
  let max := (byteAt payload 0).toNat
  if max = 0 ∨ 8 < max then complete p .badValue [] s
  else
    let q := s.queues.get p
    let taken := q.notices.take max
    let after := taken.map (fun n => { n with delivered := true }) ++ q.notices.drop max
    complete p .ok
      ([BitVec.ofNat 8 taken.length] ++ (taken.map noticeBytes).flatten ++
        [BitVec.ofNat 8 after.length, BitVec.ofNat 8 (undeliveredCount after)])
      (replaceQueue p { q with notices := after } s)

/-- The place of the DELIVERED notice with a sequence number, counted from the front (R100, R101). -/
def deliveredIndex (seq : Half) (l : List Notice) : Option Nat := l.findIdx? fun n => n.seq == seq && n.delivered

/-- ACK_NOTICES: remove the notices through the named one, drain, and release the ended entries left without a reference
(R100); a seq that names no DELIVERED notice is refused (R101). -/
def runAckNotices (p : Port) (payload : List Byte) (s : State) : State :=
  let q := s.queues.get p
  match deliveredIndex (BitVec.ofNat 16 (numField payload 0 2)) q.notices with
  | none => complete p .badSeq [] s
  | some i =>
    let s1 := replaceQueue p { q with notices := q.notices.drop (i + 1) } s
    let s2 := releaseEnded p (drain p s1)
    let after := (s2.queues.get p).notices
    complete p .ok
      [BitVec.ofNat 8 (i + 1), BitVec.ofNat 8 after.length, BitVec.ofNat 8 (undeliveredCount after)] s2

end Sys2Proof.Machine
end

