-- ==== Sys2Proof/Machine/Firing.lean ====
section
/-! DEFINITION. The Agenda Unit's own work: firing, the comparison of the agenda with a timeline value, the visit of the
realign walk and the late firings (03_firing_and_realignment.md). -/

namespace Sys2Proof.Machine

/-! ### Endings -/

/-- The HOLDOVER mark: the supply state is HOLDOVER or SETTLING (R62). -/
def holdoverMark (s : State) : Bool := !inMain s

/-- The terminal report of an entry that ends by a skip or by exhaustion at timeline value `v` (R66, R73, R90). -/
def terminalReport (reason : Reason) (missed : Half) (v : Time) (marks : Marks) : Report :=
  ⟨reason, 0, 0, missed, v, v, marks⟩

/-- End an entry with a cause; it leaves the agenda (R47). -/
def endEntry (h : Handle) (cause : EndCause) (s : State) : State := setStatus h (.ended cause) s

/-- Exhaust an entry at timeline value `v`: it ends EXHAUSTED, hands its terminal report with the missed accumulator if
it has notify YES, the accumulator becomes 0, and R48 is applied (R66). -/
def exhaust (h : Handle) (v : Time) (s : State) : State :=
  match slot s h with
  | some e =>
    let s1 := endEntry h .exhausted s
    let s2 :=
      if e.notify then
        takeTerminal e.owner h e.tag
          (terminalReport .exhausted e.missed v ⟨holdoverMark s, false, e.missed == 0xFFFF⟩) s1
      else s1
    releaseIfDone h (updateParts h (fun x => { x with missed := 0 }) s2)
  | none => s

/-- End a ONE_SHOT entry as SKIPPED at timeline value `v`, with missed count 1 in its terminal report (R73). -/
def skipOneShot (h : Handle) (v : Time) (s : State) : State :=
  match slot s h with
  | some e =>
    let s1 := endEntry h .skipped s
    let s2 :=
      if e.notify then
        takeTerminal e.owner h e.tag (terminalReport .skipped 1 v ⟨holdoverMark s, false, false⟩) s1
      else s1
    releaseIfDone h s2
  | none => s

/-! ### Advancing -/

/-- The grid points from a due up to a value, both included, for a due at or before the value (R64). -/
def pointsThrough (due v : Time) (period : BitVec 40) : Nat := (v.toNat - due.toNat) / period.toNat + 1

/-- The grid points after the fired one that an advance against `v` passes over; 0 but for PERIODIC (R62, R64, R65). -/
def passedOver (sch : Schedule) (due v : Time) : Nat :=
  match sch with
  | .periodicWall per _ => pointsThrough due v per - 1
  | .periodicElapsed per => pointsThrough due v per - 1
  | _ => 0

/-- The new due of a PERIODIC or CALENDAR entry that advances against `v`, if it lies within the range (R64, R65, R71,
R79). A ONE_SHOT entry has none. -/
def laterDue (sch : Schedule) (due v : Time) : Option Time :=
  match sch with
  | .oneShotWall => none
  | .oneShotElapsed => none
  | .periodicWall per _ => timeInRange (due.toNat + pointsThrough due v per * per.toNat)
  | .periodicElapsed per => timeInRange (due.toNat + pointsThrough due v per * per.toNat)
  | .calendar pat => nextMatch pat v

/-- Move an entry on against `ref`, or exhaust it at timeline value `v` (R64 to R66). -/
def moveOn (h : Handle) (sch : Schedule) (due ref v : Time) (s : State) : State :=
  match laterDue sch due ref with
  | some d => setStatus h (.armed d) s
  | none => exhaust h v s

/-- The advance of a firing: a ONE_SHOT entry ends FIRED and R48 is applied (R63), the others move on (R64, R65). -/
def advance (h : Handle) (sch : Schedule) (due ref v : Time) (s : State) : State :=
  match sch with
  | .oneShotWall => releaseIfDone h (endEntry h .fired s)
  | .oneShotElapsed => releaseIfDone h (endEntry h .fired s)
  | .periodicWall _ _ => moveOn h sch due ref v s
  | .periodicElapsed _ => moveOn h sch due ref v s
  | .calendar _ => moveOn h sch due ref v s

/-- The firing occurrence of an entry: `suppressed` is the ASU's answer to its pulse request (R62, R90). -/
def occurrence (e : Entry) (due ref v : Time) (late suppressed holdover : Bool) : Report :=
  let sum := e.missed.toNat + passedOver e.schedule due ref
  ⟨.fired, 1, if late then 1 else 0, BitVec.ofNat 16 (min sum 65535), v, v,
    ⟨holdover, suppressed, 65535 ≤ sum⟩⟩

/-- The firing of the entry in slot `h` at timeline value `v`: strobe, occurrence, advance (R61). The advance is made
against `ref`, which is `v` for an on-time firing and the step's new value for a late one (R79). -/
def fireEntry (h : Handle) (v ref : Time) (late : Bool) (s : State) : State :=
  match slot s h with
  | some e =>
    match e.status with
    | .armed due =>
      let (s1, suppressed) := requestPulse e.strobe e.owner s
      let s2 :=
        if e.notify then
          takeOccurrence e.owner h e.tag (occurrence e due ref v late suppressed (holdoverMark s1)) s1
        else s1
      advance h e.schedule due ref v (updateParts h (fun x => { x with missed := 0 }) s2)
    | .ended _ => s
  | none => s

/-- The head of the agenda, if its due lies at or before `v` (R60). -/
def dueHead (v : Time) (s : State) : Option Handle :=
  match s.agu.agenda with
  | [] => none
  | h :: _ =>
    match (slot s h).bind dueOf with
    | some due => if due ≤ v then some h else none
    | none => none

/-- Compare the agenda with `v`: the head fires while its due lies at or before `v`, at most `fuel` times (R60). -/
def compareLoop (v : Time) : Nat → State → State
  | 0, s => s
  | fuel + 1, s =>
    match dueHead v s with
    | some h => compareLoop v fuel (fireEntry h v v false s)
    | none => s

/-- Take a timeline value: while RUNNING the agenda is compared with it, while REALIGNING it is not (R60, R76). Every
entry fires at most once at one value, so 96 comparisons suffice. -/
def takeTimelineValue (s : State) : State :=
  if isRunning s then compareLoop s.tbu.timeline 96 s else s

/-! ### The walk -/

/-- A due shifted by a delta, capped at the last value (R72). -/
def shiftedDue (due : Time) (delta : Int) : Time :=
  let x := (due.toNat : Int) + delta
  if (lastTime.toNat : Int) < x then lastTime else timeOf x.toNat

/-- Add to a missed accumulator, stopping at 65535 (R71). -/
def addMissed (k : Nat) (m : Half) : Half := BitVec.ofNat 16 (min (m.toNat + k) 65535)

/-- The due of an entry becomes a given value if there is one; DESIGN CHOICE (log 15): with none the due stays. -/
def realignTo (h : Handle) (d : Option Time) (s : State) : State :=
  match d with
  | some x => setStatus h (.armed x) s
  | none => s

/-- The SKIP treatment of an overtaken PERIODIC or CALENDAR entry: `k` is added to the missed accumulator, and the entry
moves on against the new value or is exhausted at the timeline value of the visit (R71, R73). -/
def skipOver (h : Handle) (sch : Schedule) (k : Nat) (due new : Time) (s : State) : State :=
  moveOn h sch due new s.tbu.timeline (updateParts h (fun x => { x with missed := addMissed k x.missed }) s)

/-- The visit of an ARMED entry in a walk with delta 0 or more; the number is 1 if the skipped count rises (R71 to R73).
With a delta of 0 the column "due after new" applies to every WALL entry. -/
def visitForward (w : Walk) (h : Handle) (e : Entry) (due : Time) (s : State) : State × Nat :=
  let overtaken := decide (0 < w.delta) && decide (due ≤ w.newValue)
  match e.schedule, e.policy with
  | .oneShotElapsed, _ => (setStatus h (.armed (shiftedDue due w.delta)) s, 0)
  | .periodicElapsed _, _ => (setStatus h (.armed (shiftedDue due w.delta)) s, 0)
  | .oneShotWall, .fireLate => (s, 0)
  | .oneShotWall, .skip => if overtaken then (skipOneShot h s.tbu.timeline s, 1) else (s, 0)
  | .periodicWall _ _, .fireLate => (s, 0)
  | .periodicWall per anchor, .skip =>
    if overtaken then
      (skipOver h (.periodicWall per anchor) (pointsThrough due w.newValue per) due w.newValue s, 1)
    else (s, 0)
  | .calendar pat, .fireLate => if overtaken then (s, 0) else (realignTo h (nextMatch pat w.newValue) s, 0)
  | .calendar pat, .skip =>
    if overtaken then (skipOver h (.calendar pat) 1 due w.newValue s, 1)
    else (realignTo h (nextMatch pat w.newValue) s, 0)

/-- The visit of an ARMED entry in a walk with a delta below 0 (R72, R74). -/
def visitBackward (w : Walk) (h : Handle) (e : Entry) (due : Time) (s : State) : State :=
  match e.schedule with
  | .oneShotElapsed => setStatus h (.armed (shiftedDue due w.delta)) s
  | .periodicElapsed _ => setStatus h (.armed (shiftedDue due w.delta)) s
  | .oneShotWall => s
  | .periodicWall per anchor =>
    realignTo h (timeInRange (gridAfter anchor.toNat per.toNat w.newValue.toNat)) s
  | .calendar pat => realignTo h (nextMatch pat w.newValue) s

/-- The visit of one slot: FREE slots and ENDED entries are passed over (R70). -/
def visitSlot (w : Walk) (h : Handle) (s : State) : State × Nat :=
  match slot s h with
  | some e =>
    match e.status with
    | .armed due => if w.delta < 0 then (visitBackward w h e due s, 0) else visitForward w h e due s
    | .ended _ => (s, 0)
  | none => (s, 0)

/-- One visit of the walk: the slot at the walk position is treated and the position rises by 1 (R70). It acts while
REALIGNING with slots left to visit. -/
def walkVisit (s : State) : State :=
  match walkOf s with
  | some w =>
    if hp : w.position < 96 then
      let (s1, n) := visitSlot w ⟨w.position, hp⟩ s
      setAgendaState (.realigning { w with position := w.position + 1, skipped := w.skipped + n }) s1
    else s
  | none => s

/-! ### Late firings -/

/-- An entry fires late at the end of a forward walk: ARMED, WALL, FIRE_LATE, due at or before the new value (R79). -/
def firesLate (w : Walk) (s : State) (h : Handle) : Bool :=
  match slot s h with
  | some e =>
    match e.status with
    | .armed due =>
      decide (0 < w.delta) && e.schedule.reference == .wall && e.policy == .fireLate && decide (due ≤ w.newValue)
    | .ended _ => false
  | none => false

/-- The entries that fire late, in handle order (R79). A late firing touches no other entry's due. -/
def lateHandles (w : Walk) (s : State) : List Handle := allHandles.filter (firesLate w s)

/-- The late firings, at the timeline value that stands at the end of the walk (R79). -/
def lateFirings (w : Walk) (s : State) : State :=
  (lateHandles w s).foldl (fun s h => fireEntry h s.tbu.timeline w.newValue true s) s

end Sys2Proof.Machine
end

