-- ==== Sys2Proof/Machine/Timebase.lean ====
section
/-! DEFINITION. The Timebase Unit: the oscillator tick, the crystal monitor, the step, and the commands READ_TIME,
READ_CALENDAR, SLEW_TIME and SET_TRIM (01_the_timeline.md). -/

namespace Sys2Proof.Machine

/-! ### The oscillator tick -/

/-- The place of a monotonic count in its run of 1 048 576 ticks, 1 to 1 048 576 (R9). -/
def runPlace (mono : Mono) : Nat := if mono.toNat % trimRun = 0 then trimRun else mono.toNat % trimRun

/-- The tick that brings the monotonic count to `mono` is a trim adjustment tick under `trim` (R9). -/
def isTrimTick (trim : Int) (mono : Mono) : Bool :=
  (runPlace mono - 1) * trim.natAbs / trimRun < runPlace mono * trim.natAbs / trimRun

/-- The tick that brings the monotonic count to `mono` is a slew tick (R11). -/
def isSlewTick (mono : Mono) : Bool := mono.toNat % 64 == 0

/-- The trim effect of a tick (R5). -/
def trimEffect (trim : Int) (mono : Mono) : Int := if isTrimTick trim mono then trim.sign else 0

/-- The slew effect of a tick: one tick toward zero at a slew tick, but none where a negative trim adjustment coincides
with a negative slew (R5, R11). -/
def slewEffect (trim slew : Int) (mono : Mono) : Int :=
  if isSlewTick mono then
    if slew < 0 ∧ trimEffect trim mono < 0 then 0 else slew.sign
  else 0

/-- The amount by which a tick advances the timeline, 0 to 3 (R5). -/
def tickAdvance (t : Tbu) (mono : Mono) : Int := 1 + trimEffect t.trim mono + slewEffect t.trim t.slew mono

/-- What a tick does to the TBU: the new state, whether a range-end event was met, whether the slew was completed
(R1, R2, R5, R6, R11, R12). While the timeline stands at the last value it stays and the slew is not moved; a tick whose
advance is 1 or more is then a range-end event (log 10). DESIGN CHOICE (log 28): the advance of such a tick is formed with
the trim and slew effects of R5, so one of -1 makes it 0 and no range-end event is met. A tick is a crystal transition, so
the monitor is RUNNING (R15; log 9). -/
def tbuTick (t : Tbu) : Tbu × Bool × Bool :=
  let mono := t.mono + 1
  let adv := tickAdvance t mono
  let counted : Tbu := { t with divider := 0, mono := mono, monitor := .running }
  if t.timeline = lastTime then
    if 1 ≤ adv then ({ counted with validity := .suspect }, true, false) else (counted, false, false)
  else
    let slew := t.slew - slewEffect t.trim t.slew mono
    let slewDone := decide (t.slew ≠ 0 ∧ slew = 0)
    let x := (t.timeline.toNat : Int) + adv
    if (lastTime.toNat : Int) < x then
      ({ counted with timeline := lastTime, slew := slew, validity := .suspect }, true, slewDone)
    else ({ counted with timeline := timeOf x.toNat, slew := slew }, false, slewDone)

/-- Hand the VALIDITY flag to every port if validity differs from what it was (R14). -/
def handValidityChange (before : Validity) (s : State) : State :=
  if s.tbu.validity ≠ before then handFlagToAll .validity s else s

/-- The oscillator tick as one event: the counts, the flags, and the new timeline value handed to the AGU if it changed
(R1, R6, R12, R27). DESIGN CHOICE (log 26): the firings of a tick come before the expiry of a limit, such as the settle
end, that ends at it. -/
def oscillatorTick (s : State) : State :=
  let (t, _, slewDone) := tbuTick s.tbu
  let s1 := s.setTbu t
  let s2 := if slewDone then handFlagToAll .timeAdjusted s1 else s1
  let s3 := handValidityChange s.tbu.validity s2
  if t.timeline = s.tbu.timeline then s3 else takeTimelineValue s3

/-! ### The crystal monitor -/

/-- The crystal-stop event: while RUNNING, the monitor becomes STOPPED and validity SUSPECT (R14, R15). -/
def crystalStop (s : State) : State :=
  if s.tbu.monitor = .running then
    handValidityChange s.tbu.validity (s.setTbu { s.tbu with monitor := .stopped, validity := .suspect })
  else s

/-- A crystal transition: the monitor is RUNNING (R15). One that ends a crystal period moves the divider; the period that
returns the divider to 0 is an oscillator tick (R1). -/
def crystalTransition (endsPeriod : Bool) (s : State) : State :=
  let s1 := s.setTbu { s.tbu with monitor := .running }
  if endsPeriod then
    if s.tbu.divider = 7 then oscillatorTick s1
    else s1.setTbu { s1.tbu with divider := s1.tbu.divider + 1 }
  else s1

/-! ### The step -/

/-- The target of a STEP_TIME payload from the present timeline value, or none where a field is refused (R17, R18). The
direction byte of an ABSOLUTE step is not examined (R198). -/
def stepTarget (now : Time) (payload : List Byte) : Option Time :=
  let mode := byteAt payload 0
  let direction := byteAt payload 1
  let seconds := numField payload 2 4
  let ticks := numField payload 6 2
  let amount := seconds * 4096 + ticks
  if 4095 < ticks then none
  else if mode = 0x00 then some (timeOf amount)
  else if mode = 0x01 then
    if 2147483647 < seconds then none
    else if direction = 0x00 then timeInRange (now.toNat + amount)
    else if direction = 0x01 then (if amount ≤ now.toNat then some (timeOf (now.toNat - amount)) else none)
    else none
  else none

/-- A step taken by the TBU with a target, for port `p`: the jump, the dropped slew, validity, the flags, and the walk
record of the AGU (R19, R69). -/
def takeStep (p : Port) (target : Time) (s : State) : State :=
  let t := s.tbu
  let s1 := s.setTbu { t with timeline := target, slew := 0, validity := .valid }
  let s2 := handFlagToOthers .timeAdjusted p s1
  let s3 := handValidityChange t.validity s2
  setAgendaState
    (.realigning
      { port := p, oldValue := t.timeline, newValue := target, droppedSlew := t.slew
        delta := (target.toNat : Int) - (t.timeline.toNat : Int)
        position := 0, skipped := 0, firedLate := 0, wanted := true }) s3

/-- The AGU passes a STEP_TIME to the TBU: a refused one completes with BAD_VALUE, a valid one is taken and its port stays
WORKING until the walk ends (R17 to R19). -/
def runStepTime (p : Port) (payload : List Byte) (s : State) : State :=
  match stepTarget s.tbu.timeline payload with
  | none => complete p .badValue [] s
  | some target => takeStep p target s

/-! ### Reading and steering -/

/-- READ_TIME (R22): one snapshot of the counts, validity, slew, trim, lease and agenda state. -/
def runReadTime (p : Port) (s : State) : State :=
  complete p .ok
    (timeBytes s.tbu.timeline ++ toBytes 6 s.tbu.mono.toNat ++ [validityCode s.tbu.validity] ++
      signedBytes 4 s.tbu.slew ++ signedBytes 1 s.tbu.trim ++ [holderCode (s.lease.map (·.holder))] ++
      toBytes 4 (remainingLease s) ++ [agendaStateCode s]) s

/-- READ_CALENDAR (R23): the calendar view of the timeline value, its ticks and the validity. -/
def runReadCalendar (p : Port) (s : State) : State :=
  let c := calendarView s.tbu.timeline
  complete p .ok
    (toBytes 2 c.date.year ++
      [BitVec.ofNat 8 c.date.month, BitVec.ofNat 8 c.date.day, BitVec.ofNat 8 c.weekday, BitVec.ofNat 8 c.hour,
        BitVec.ofNat 8 c.minute, BitVec.ofNat 8 c.second] ++
      toBytes 2 (ticksOf s.tbu.timeline) ++ [validityCode s.tbu.validity]) s

/-- SLEW_TIME after the authority check: the slew remaining is replaced by an amount in range (R13). -/
def runSlewTime (p : Port) (payload : List Byte) (s : State) : State :=
  let amount := ofSignedBytes (field payload 0 4)
  if amount < -maxSlew ∨ maxSlew < amount then complete p .badValue [] s
  else complete p .ok (signedBytes 4 s.tbu.slew) (s.setTbu { s.tbu with slew := amount })

/-- SET_TRIM after the authority check: the trim is replaced by a value in range (R10). -/
def runSetTrim (p : Port) (payload : List Byte) (s : State) : State :=
  let trim := ofSignedBytes (field payload 0 1)
  if trim < -maxTrim ∨ maxTrim < trim then complete p .badValue [] s
  else complete p .ok (signedBytes 1 s.tbu.trim) (s.setTbu { s.tbu with trim := trim })

end Sys2Proof.Machine
end

