-- ==== Sys2Proof/Machine/Authority.lean ====
section
/-! DEFINITION. The Authority Arbiter: the authority check, CLAIM_AUTHORITY, RELEASE_AUTHORITY and the expiry of the
lease (05_time_authority.md). -/

namespace Sys2Proof.Machine

/-- The authority check of a steering command: the holder's command goes on, any other port is refused (R123). -/
def withAuthority (p : Port) (run : State → State) (s : State) : State :=
  if isHolder s p then run s else complete p .notHolder [] s

/-- The ticks of a lease of whole seconds (R115). -/
def leaseTicks (duration : Nat) : Nat := duration * 4096

/-- The remaining lease in whole seconds, rounded up (R113, R115). -/
def remainingSeconds (s : State) : Nat := (remainingLease s + 4095) / 4096

/-- CLAIM_AUTHORITY: MAY_STEER, then the duration, then the holder are examined; the lease is granted or renewed (R114,
R115). -/
def runClaimAuthority (p : Port) (payload : List Byte) (s : State) : State :=
  let profile := s.pru.profiles.get p
  let duration := numField payload 0 2
  let granted := s.setLease (some ⟨p, s.tbu.mono + BitVec.ofNat 48 (leaseTicks duration)⟩)
  if !profile.maySteer then complete p .notPermitted [] s
  else if duration = 0 ∨ profile.maxLease.toNat < duration then complete p .badValue [] s
  else
    match s.lease with
    | none => complete p .ok ([0x01] ++ toBytes 4 (leaseTicks duration)) granted
    | some l =>
      if l.holder = p then complete p .ok ([0x02] ++ toBytes 4 (leaseTicks duration)) granted
      else complete p .heldByOther ([portCode l.holder] ++ toBytes 2 (remainingSeconds s)) s

/-- RELEASE_AUTHORITY: the holder gives up the lease; any other port is refused (R117). -/
def runReleaseAuthority (p : Port) (s : State) : State :=
  if isHolder s p then complete p .ok (toBytes 4 (remainingLease s)) (s.setLease none)
  else complete p .notHolder [] s

/-- The lease end is due: a port holds the lease and the monotonic count equals its end (R3, R118). -/
def leaseDue (s : State) : Bool := s.lease.any fun l => l.endAt == s.tbu.mono

/-- The expiry of the lease, at the tick that brings the monotonic count to its end and at no other time (R118). -/
def leaseExpiry (s : State) : State := if leaseDue s then loseLease s else s

end Sys2Proof.Machine
end

