-- ==== Sys2Proof/Machine/Entries.lean ====
section
/-! DEFINITION. The entry commands, the held-command list and the end of the walk (02_agenda_entries.md, 2.5 to 2.10;
03_firing_and_realignment.md, 3.5 and 3.6). -/

namespace Sys2Proof.Machine

/-! ### CREATE_ENTRY -/

/-- A slot is FREE (R28). -/
def isFree (s : State) (h : Handle) : Bool := (slot s h).isNone

/-- A handle lies in the window of a profile (R39). -/
def inWindow (r : Profile) (h : Handle) : Bool := decide (r.base.toNat ≤ h.val) && decide (h.val ≤ r.limit.toNat)

/-- The lowest-numbered FREE slot inside the window of a port (R39). -/
def freeSlot (s : State) (p : Port) : Option Handle :=
  allHandles.find? fun h => inWindow (s.pru.profiles.get p) h && isFree s h

/-- The record that an accepted CREATE_ENTRY writes (R29, R45). -/
def newEntry (p : Port) (tag : Half) (c : CreateCodes) (t : Timing) (due : Time) : Entry where
  owner := p
  tag := tag
  schedule := t.schedule
  policy := c.policy
  notify := c.notify
  strobe := c.strobe
  persist := c.persist
  status := .armed due
  missed := 0
  summary := none
  terminal := none

/-- Checks 1 to 6 of R44, in order: the codes, the timing fields and the first due of the new entry, or the result of the
first check that fails. -/
def judgeCreate (now : Time) (payload : List Byte) : Except Result (CreateCodes × Timing × Time) :=
  match createCodes payload with
  | none => .error .badValue
  | some c =>
    if !createCombination c then .error .badValue
    else
      match timingFields c.kind c.reference payload with
      | none => .error .badValue
      | some t =>
        match t with
        | .oneShotWall due => if due ≤ now then .error .inPast else .ok (c, t, due)
        | .calendar pat =>
          if neverMatches pat then .error .noMatch
          else
            match firstDue now t with
            | none => .error .noMatch
            | some due => .ok (c, t, due)
        | _ =>
          match firstDue now t with
          | none => .error .noMatch
          | some due => .ok (c, t, due)

/-- CREATE_ENTRY as the AGU takes it: the checks of R44 in order, then the record is written and the entry joins the
agenda (R44, R45). -/
def runCreateEntry (p : Port) (payload : List Byte) (s : State) : State :=
  match judgeCreate s.tbu.timeline payload with
  | .error r => complete p r [] s
  | .ok (c, t, due) =>
    if (s.pru.profiles.get p).quota.toNat ≤ ownedCount s p then complete p .quotaFull [] s
    else
      match freeSlot s p with
      | none => complete p .noSlot [] s
      | some h =>
        complete p .ok ([BitVec.ofNat 8 h.val] ++ timeBytes due)
          (putSlot h (some (newEntry p (BitVec.ofNat 16 (numField payload 0 2)) c t due)) s)

/-! ### CANCEL_ENTRY, QUERY_ENTRY, LIST_OWN -/

/-- The handle that a byte names, if it is at most 95 (R50, R53). -/
def handleOf (x : Byte) : Option Handle := if hx : x.toNat < 96 then some ⟨x.toNat, hx⟩ else none

/-- The handle and the entry that a byte names, if the slot is allocated (R50, R53). -/
def entryNamed (s : State) (x : Byte) : Option (Handle × Entry) :=
  (handleOf x).bind fun h => (slot s h).map fun e => (h, e)

/-- CANCEL_ENTRY as the AGU takes it: only the owner may cancel (R50); an ARMED entry ends CANCELLED and is released if it
has no reference (R51); an ENDED one stays as it is (R52). -/
def runCancelEntry (p : Port) (payload : List Byte) (s : State) : State :=
  match entryNamed s (byteAt payload 0) with
  | none => complete p .badHandle [] s
  | some (h, e) =>
    if e.owner ≠ p then complete p .badHandle [] s
    else if isEnded e then complete p .ok [0x02, 0x01] s
    else
      let s1 := releaseIfDone h (endEntry h .cancelled s)
      complete p .ok [0x01, if isFree s1 h then 0x00 else 0x01] s1

/-- QUERY_ENTRY as the AGU takes it: open to the owner and to a port with ADMIN (R53). -/
def runQueryEntry (p : Port) (payload : List Byte) (s : State) : State :=
  match entryNamed s (byteAt payload 0) with
  | none => complete p .badHandle [] s
  | some (h, e) =>
    if e.owner ≠ p ∧ (s.pru.profiles.get p).admin = false then complete p .badHandle [] s
    else complete p .ok (entryBytes h e (noticesFor s e.owner h)) s

/-- The ARMED handles of a port in agenda order (R54). -/
def armedHandles (s : State) (p : Port) : List Handle := s.agu.agenda.filter (ownedBy s p)

/-- The ENDED handles of a port in handle order (R54). -/
def endedHandles (s : State) (p : Port) : List Handle :=
  allHandles.filter fun h => (slot s h).any fun e => e.owner == p && isEnded e

/-- LIST_OWN as the AGU takes it (R54). -/
def runListOwn (p : Port) (s : State) : State :=
  let armed := armedHandles s p
  let ended := endedHandles s p
  complete p .ok
    ([BitVec.ofNat 8 armed.length] ++ armed.map (fun h => BitVec.ofNat 8 h.val) ++
      [BitVec.ofNat 8 ended.length] ++ ended.map (fun h => BitVec.ofNat 8 h.val)) s

/-! ### The held-command list -/

/-- Take one of the five agenda commands as its own rule gives it for the AGU RUNNING (R82). -/
def runAgendaCommand (p : Port) (c : AgendaCommand) (s : State) : State :=
  match c with
  | .step payload => runStepTime p payload s
  | .create payload => runCreateEntry p payload s
  | .cancel payload => runCancelEntry p payload s
  | .query payload => runQueryEntry p payload s
  | .listOwn => runListOwn p s

/-- A port hands one of the five commands to the AGU: taken at once while RUNNING, held in the port's place while
REALIGNING, with the mark held YES (R81, R178). -/
def handToAgenda (p : Port) (c : AgendaCommand) (s : State) : State :=
  if isRunning s then runAgendaCommand p c s else markHeld p true (setHeld p (some c) s)

/-- Take the held command of a port, if the AGU is RUNNING and the place is not empty: the place becomes empty, the mark
becomes NO, and the command is taken (R82, R178). While a step of an earlier place realigns, the place keeps its command
(R83). -/
def takeHeld (s : State) (p : Port) : State :=
  if isRunning s then
    match s.agu.held.get p with
    | some c => runAgendaCommand p c (markHeld p false (setHeld p none s))
    | none => s
  else s

/-! ### The end of the walk -/

/-- The payload of an OK response of STEP_TIME (R80, 10.4). -/
def stepPayload (w : Walk) : List Byte :=
  timeBytes w.oldValue ++ timeBytes w.newValue ++ signedBytes 4 w.droppedSlew ++
    [BitVec.ofNat 8 w.firedLate, BitVec.ofNat 8 w.skipped]

/-- Complete the step of a walk if its response is wanted (R80). -/
def completeStep (w : Walk) (s : State) : State :=
  if w.wanted then complete w.port .ok (stepPayload w) s else s

/-- The end of the walk, once the position is 96: RUNNING; late firings; the step's response; the comparison with the
present timeline value; the held commands in port order (R78). -/
def endOfWalk (s : State) : State :=
  match walkOf s with
  | some w =>
    if 96 ≤ w.position then
      let s1 := setAgendaState .running s
      let s2 := lateFirings w s1
      let s3 := completeStep { w with firedLate := (lateHandles w s1).length } s2
      let s4 := takeTimelineValue s3
      allPorts.foldl takeHeld s4
    else s
  | none => s

end Sys2Proof.Machine
end

