-- ==== Sys2Proof/Machine/Attention.lean ====
section
/-! DEFINITION. The commands and expiries of the Attention and Strobe Unit (06_attention_and_strobe_outputs.md). -/

namespace Sys2Proof.Machine

/-- The attention pulse remaining, 0 when no pulse runs (R130). -/
def pulseRemaining (s : State) (p : Port) : Nat :=
  match (s.attn.get p).pulseEnd with
  | some e => (remaining e s.tbu.mono).toNat
  | none => 0

/-- READ_FLAGS (R130). -/
def runReadFlags (p : Port) (s : State) : State :=
  let a := s.attn.get p
  complete p .ok
    (flagSetBytes a.flags ++ [causeCode a.cause] ++ sourceSetBytes a.enables ++
      [attnModeCode a.mode, boolCode (noticeSource s p), boolCode (attnCondition s p), attnLineCode a.line,
        BitVec.ofNat 8 (pulseRemaining s p)]) s

/-- CLEAR_FLAGS: a set with a member outside the nine flags is refused; else the named flags are cleared, the cause goes
with FRAME, and the condition is formed again (R131). -/
def runClearFlags (p : Port) (payload : List Byte) (s : State) : State :=
  let named := numField payload 0 2
  if 512 ≤ named then complete p .badValue [] s
  else
    let a := s.attn.get p
    let set := BitVec.ofNat 9 named
    let after := a.flags &&& ~~~set
    let cause := if (a.flags &&& set).getLsbD 6 then .none else a.cause
    complete p .ok (flagSetBytes (a.flags &&& set) ++ flagSetBytes after ++ [causeCode cause])
      (followAttention p (attnCondition s p) (s.setAttn p { a with flags := after, cause := cause }))

/-- The line after SET_ATTENTION in MAIN, by the modes and conditions before and after (R134). -/
def reconfiguredLine (mono : Mono) (modeBefore : AttnMode) (before after : Bool) (a : Attn) : Attn :=
  match modeBefore, a.mode with
  | _, .level => levelLine after a
  | .level, .pulse => if !before && after then startedPulse mono a else releasedLine a
  | .pulse, .pulse =>
    if !before && after then startedPulse mono a else if after then a else releasedLine a

/-- SET_ATTENTION: a set with a member outside the ten sources or an undefined mode is refused; else enables and mode are
replaced and the line follows the table of R134. -/
def runSetAttention (p : Port) (payload : List Byte) (s : State) : State :=
  let named := numField payload 0 2
  match twoCodes (byteAt payload 2) AttnMode.level .pulse with
  | none => complete p .badValue [] s
  | some mode =>
    if 1024 ≤ named then complete p .badValue [] s
    else
      let a := s.attn.get p
      let before := attnCondition s p
      let s1 := s.setAttn p { a with enables := BitVec.ofNat 10 named, mode := mode }
      let after := attnCondition s1 p
      let s2 :=
        if inMain s then s1.setAttn p (reconfiguredLine s.tbu.mono a.mode before after (s1.attn.get p)) else s1
      complete p .ok (sourceSetBytes a.enables ++ [attnModeCode a.mode, boolCode after]) s2

/-- An attention pulse of a port is due to end (R3, R136). -/
def attnPulseDue (s : State) (p : Port) : Bool := (s.attn.get p).pulseEnd.any fun e => e == s.tbu.mono

/-- The end of an attention pulse: the line is released and the pulse end removed (R136). -/
def attnPulseEnd (p : Port) (s : State) : State :=
  if attnPulseDue s p then s.setAttn p (releasedLine (s.attn.get p)) else s

/-- A strobe pulse of a line is due to end (R3, R143). -/
def strobePulseDue (s : State) (l : Line) : Bool :=
  match s.strobes.get l with
  | .pulsing e => e == s.tbu.mono
  | .idle => false

/-- The end of a strobe pulse: the line becomes IDLE (R143). -/
def strobePulseEnd (l : Line) (s : State) : State := if strobePulseDue s l then s.setStrobe l .idle else s

end Sys2Proof.Machine
end

