-- ==== Sys2Proof/Machine/Resets.lean ====
section
/-! DEFINITION. Port reset, system reset and power-on, each in every block (R55 to R57, R84 to R86, R105 to R108, R121,
R126, R139, R140, R146, R148, R156, R168, R183, R184, R193, R195). -/

namespace Sys2Proof.Machine

/-! ### Port reset -/

/-- Free the entries of a port that have persist NO (R56). -/
def freeVolatile (p : Port) (s : State) : State :=
  allHandles.foldl
    (fun s h => if (slot s h).any (fun e => e.owner == p && !e.persist) then putSlot h none s else s) s

/-- The queue and the entries at a port reset: the queue is emptied and its next sequence number becomes 0, entries with
persist NO are freed, the notices of the others are merged back and drained, and R48 is applied (R56, R106 to R108). -/
def resetNotices (p : Port) (s : State) : State :=
  let queue := (s.queues.get p).notices
  let s1 := replaceQueue p ⟨[], 0⟩ s
  releaseEnded p (drain p (mergeBack p queue (freeVolatile p s1)))

/-- The ASU state of a port at its port reset: the defaults, then PORT_RESET (R140). -/
def resetAttention (p : Port) (s : State) : State := s.setAttn p (.defaults (flagBit .portReset))

/-- A port reset revokes the lease of its port; LEASE_LOST is set after the ASU's defaults (R121, R140). -/
def resetLease (p : Port) (s : State) : State := if isHolder s p then loseLease s else s

/-- The Port Controller at a port reset: the transaction is discarded, and the port is IDLE with no command and no
response (R184). -/
def resetPortController (p : Port) (s : State) : State := setPortState p .idle (discardTransaction p s)

/-- The port reset of a port, in every block, as one event (R156, R183, R184). -/
def portReset (p : Port) (s : State) : State :=
  let s1 := resetPortController p s
  let s2 := dropWantedResponse (some p) (setHeld p none s1)
  resetLease p (resetAttention p (resetNotices p s2))

/-! ### System reset -/

/-- The Port Controller of a port at system reset: NOT_READY, the transaction discarded (R168). -/
def systemResetPort (c : PortCtl) : PortCtl :=
  { c with
    state := .notReady
    receiver :=
      match c.receiver with
      | .receiving _ _ _ => .discarding
      | r => r }

/-- The system reset, in every block, as one event; the SPM is not changed (R195). The profile source keeps its value
(R164). -/
def systemReset (s : State) : State :=
  { s with
    tbu := { s.tbu with slew := 0 }
    lease := none
    agu := .empty
    queues := .const ⟨[], 0⟩
    attn := .const (.defaults (flagBit .restarted))
    strobes := .const .idle
    pru :=
      { s.pru with
        profiles := defaultProfiles
        strobeMap := defaultStrobeMap
        load := .loading
        twoWire := .held }
    ports := s.ports.map systemResetPort }

/-! ### Reads of the profile image and power-on -/

/-- Begin a read of the profile image: LOADING, and the controller RECOVERING if CFGSDA is low, READING otherwise (R159,
R160). The level of CFGSDA is a free value (log 5). -/
def beginRead (s : State) : State :=
  { s with
    pru :=
      { s.pru with
        load := .loading
        twoWire := if Config.cfgsdaLow s.draws then .recovering else .reading
        bus := [] }
    draws := s.draws + 1 }

/-- The state that every block takes at power-on, by the pin levels it finds, before a read begins (R24, R55, R86, R105,
R126, R139, R146, R148, R159, R168, R191, R193). -/
def powerOnState (l : PowerLevels) (draws : Nat) (pending : List Instr) : State where
  tbu := ⟨0, 0, 0, 0, 0, .unset, .notArmed⟩
  lease := none
  agu := .empty
  queues := .const ⟨[], 0⟩
  attn := .const (.defaults (flagBit .restarted))
  strobes := .const .idle
  pru := ⟨defaultProfiles, defaultStrobeMap, .defaultAbsent, .waitingSupply, .idle, []⟩
  ports := l.select.map fun sel =>
    ⟨sel, if l.vddHigh then .notReady else .offline, if sel then .discarding else .waiting, []⟩
  spm := ⟨if l.vddHigh then .main else .holdover, if l.vbatHigh then .present else .low, l.resetLow⟩
  draws := draws
  pending := pending

/-- The power-on event; in MAIN a read of the profile image begins, and the system reset follows if the reset input is
ASSERTED (R193, R194). -/
def powerOn (l : PowerLevels) (s : State) : State :=
  let s1 := powerOnState l s.draws s.pending
  if l.vddHigh then
    (if l.resetLow then systemReset (beginRead s1) else beginRead s1)
  else s1

end Sys2Proof.Machine
end

