-- ==== Sys2Proof/Machine/Profiles.lean ====
section
/-! DEFINITION. The Profile Unit: the administrative commands, READ_PROFILE and the completion of the profile load
(07_port_profiles_and_the_profile_image.md). -/

namespace Sys2Proof.Machine

/-- An administrative command: a port whose profile does not carry ADMIN is refused before the payload is examined
(R151). -/
def withAdmin (p : Port) (run : State → State) (s : State) : State :=
  if (s.pru.profiles.get p).admin then run s else complete p .notPermitted [] s

/-- READ_PROFILE (R158). -/
def runReadProfile (p : Port) (payload : List Byte) (s : State) : State :=
  match portOfCode (byteAt payload 0) with
  | none => complete p .badValue [] s
  | some t =>
    complete p .ok
      (profileBytes (s.pru.profiles.get t) ++ [BitVec.ofNat 8 (ownedCount s t)] ++ strobeMapBytes s.pru.strobeMap ++
        [sourceCode s.pru.source]) s

/-- SET_PROFILE after the ADMIN check: the checks of R152 in order; an accepted one replaces the record, sets PROFILE on
the target, and revokes the lease of a holder left without MAY_STEER (R152, R153, R120). -/
def runSetProfile (p : Port) (payload : List Byte) (s : State) : State :=
  match portOfCode (byteAt payload 0), profileAt payload 1 with
  | some t, some r =>
    let table := s.pru.profiles.set t r
    if !someAdmin table then complete p .lastAdmin [] s
    else if r.quota.toNat < ownedCount s t then complete p .quotaBelowUse [] s
    else
      let s1 := handFlag .profile t (s.setPru { s.pru with profiles := table })
      let s2 := if isHolder s t && !r.maySteer then loseLease s1 else s1
      complete p .ok ([portCode t] ++ profileBytes (s.pru.profiles.get t)) s2
  | _, _ => complete p .badValue [] s

/-- A line whose record changes ends its pulse (R144). -/
def lineAfterMap (old new : StrobeRecord) (x : StrobeLine) : StrobeLine := if old = new then x else .idle

/-- SET_STROBE_MAP after the ADMIN check: the four records replace the map, and the lines whose record changes become
IDLE (R144, R155). -/
def runSetStrobeMap (p : Port) (payload : List Byte) (s : State) : State :=
  match strobeMapAt payload 0 with
  | none => complete p .badValue [] s
  | some m =>
    let o := s.pru.strobeMap
    complete p .ok (strobeMapBytes o)
      { s with
        pru := { s.pru with strobeMap := m }
        strobes :=
          ⟨lineAfterMap o.l0 m.l0 s.strobes.l0, lineAfterMap o.l1 m.l1 s.strobes.l1,
            lineAfterMap o.l2 m.l2 s.strobes.l2, lineAfterMap o.l3 m.l3 s.strobes.l3⟩ }

/-- RESET_PORT after the ADMIN check: the port reset of the target, with the target's port state just before it in the
response; naming the issuing port, it acts as SELF_RESET and delivers no response (R156, R183). -/
def runResetPort (p : Port) (payload : List Byte) (s : State) : State :=
  match portOfCode (byteAt payload 0) with
  | none => complete p .badValue [] s
  | some t =>
    if t = p then portReset p s
    else complete p .ok [portCode t, portStateCode (s.ports.get t).state] (portReset t s)

/-! ### The profile load -/

/-- A read of the profile image runs (R159, R160). -/
def readRuns (s : State) : Bool :=
  s.pru.load == .loading && (s.pru.twoWire == .recovering || s.pru.twoWire == .reading)

/-- The levels that the controller samples in a recovery of at most `n` pulses: up to the first high one (R160, step 1). -/
def recoveryPulses : Nat → List Bool → List Bool
  | 0, _ => []
  | _, [] => []
  | n + 1, high :: rest => high :: if high then [] else recoveryPulses n rest

/-- The recovery of a read is over, or was not needed: CFGSDA was high after one of its pulses (R160, step 1). -/
def recovered (phase : TwoWire) (x : ReadTransfer) : Bool :=
  phase != .recovering || (recoveryPulses 9 x.recovery).any id

/-- The recovery of a read failed: CFGSDA was low after each of nine pulses (R160, step 1). -/
def recoveryFailed (phase : TwoWire) (x : ReadTransfer) : Bool :=
  phase == .recovering && recoveryPulses 9 x.recovery == List.replicate 9 false

/-- The address byte of the memory: 50h shifted left by one place, with the direction in bit 0 (R160). -/
def addressByte (read : Bool) : Byte := (0x50 <<< 1) ||| (if read then 0x01 else 0x00)

/-- The three bytes that the controller sends, each with the condition formed before it (R160, steps 2 and 3). -/
def bytesToSend : List (Option BusItem × Byte) :=
  [(some .start, addressByte false), (none, 0x00), (some .repeatedStart, addressByte true)]

/-- Sending these bytes: a byte that the memory does not acknowledge is followed by a stop condition at once (R161). -/
def sendItems : List (Option BusItem × Byte) → List Bool → List BusItem
  | (condition, byte) :: rest, acked :: acks =>
    condition.toList ++ .sent byte acked :: if acked then sendItems rest acks else [.stop]
  | _, _ => []

/-- Receiving bytes: the first 32 are acknowledged, the 33rd is not, and a stop condition follows it (R160, steps 4
and 5). -/
def receiveItems (bytes : List Byte) : List BusItem :=
  (bytes.take 33).mapIdx (fun i byte => .received byte (decide (i < 32))) ++ if 33 ≤ bytes.length then [.stop] else []

/-- The memory acknowledges the three bytes that the controller sends (R160). -/
def acknowledged (x : ReadTransfer) : Bool := x.acks.take 3 == [true, true, true]

/-- The memory fails to acknowledge one of the three bytes that the controller sends (R161). -/
def refusedByMemory (x : ReadTransfer) : Bool := (x.acks.take 3).contains false

/-- What the controller does on the two-wire pins in a recovery (R160, step 1). -/
def recoveryItems (phase : TwoWire) (x : ReadTransfer) : List BusItem :=
  if phase = .recovering then (recoveryPulses 9 x.recovery).map .pulse else []

/-- What the controller does on the two-wire pins once it is READING (R160, steps 2 to 5; R161). -/
def readingItems (x : ReadTransfer) : List BusItem :=
  sendItems bytesToSend x.acks ++ if acknowledged x then receiveItems x.bytes else []

/-- How far a read has come: it goes on, or it ends without bytes (R161), or with 33 bytes (R160, step 5). -/
inductive ReadEnd where
  | underway
  | absent
  | complete (bytes : List Byte)
  deriving DecidableEq, Repr

/-- How far a read has come, from the phase of the controller and what it samples (R160, R161). -/
def readEnd (phase : TwoWire) (x : ReadTransfer) : ReadEnd :=
  if recoveryFailed phase x then .absent
  else if !recovered phase x then .underway
  else if refusedByMemory x then .absent
  else if !acknowledged x || x.bytes.length < 33 then .underway
  else .complete (x.bytes.take 33)

/-- The tables and the outcome that the bytes of a complete read give (R162, R163). -/
def loadOutcome (bytes : List Byte) : PerPort Profile × PerLine StrobeRecord × ProfileSource :=
  match judgeImage bytes with
  | some (t, m) => (t, m, .image)
  | none => (defaultProfiles, defaultStrobeMap, .defaultBad)

/-- A port that is NOT_READY becomes IDLE at the completion of the load (R168). -/
def readyPort (c : PortCtl) : PortCtl :=
  match c.state with
  | .notReady => { c with state := .idle }
  | _ => c

/-- A read ends with an outcome: the tables and the source are installed, the load is READY and the ports leave NOT_READY
(R163). -/
def completeLoad (outcome : PerPort Profile × PerLine StrobeRecord × ProfileSource) (bus : List BusItem) (s : State) :
    State :=
  { s with
    pru := ⟨outcome.1, outcome.2.1, outcome.2.2, .ready, .idle, bus⟩
    ports := s.ports.map readyPort }

/-- A read of the profile image goes on with what the controller samples: it ends with an outcome (R161 to R163), or, once
its recovery is over, the controller is READING (R160, step 2). A transfer that brings it no further leaves the state
(logs 2, 18). -/
def profileLoadComplete (x : ReadTransfer) (s : State) : State :=
  if readRuns s then
    let phase := s.pru.twoWire
    let recovering := s.pru.bus ++ recoveryItems phase x
    match readEnd phase x with
    | .absent =>
      completeLoad (defaultProfiles, defaultStrobeMap, .defaultAbsent)
        (recovering ++ if recovered phase x then readingItems x else []) s
    | .complete bytes => completeLoad (loadOutcome bytes) (recovering ++ readingItems x) s
    | .underway =>
      if recovered phase x then { s with pru := { s.pru with twoWire := .reading, bus := recovering } } else s
  else s

end Sys2Proof.Machine
end

