-- ==== Sys2Proof/Machine/Supply.lean ====
section
/-! DEFINITION. The Supply Monitor: holdover, settling, resume, the backup state and the system reset input
(09_supply_holdover_and_start_up.md). -/

namespace Sys2Proof.Machine

/-- Set the supply state (R186). -/
def setSupply (x : Supply) (s : State) : State := s.setSpm { s.spm with supply := x }

/-- The Port Controller of a port at holdover entry: OFFLINE, the transaction abandoned (R169). -/
def holdoverPort (c : PortCtl) : PortCtl :=
  { c with state := .offline, receiver := if c.select then .discarding else .waiting }

/-- The PRU at holdover entry: a load becomes WAITING_SUPPLY and the controller is IDLE (R159, R164). -/
def holdoverPru (x : Pru) : Pru :=
  { x with
    load :=
      match x.load with
      | .loading => .waitingSupply
      | l => l
    twoWire := .idle }

/-- Holdover entry, from MAIN alone (R188): the held commands are discarded and a walk no longer wants its response
(R87); the lease is revoked (R122); the attention lines are released (R138) and the strobe lines IDLE (R145). -/
def holdoverEntry (s : State) : State :=
  if inMain s then
    let s1 := setSupply .holdover s
    let s2 := dropWantedResponse none (s1.setAgu { s1.agu with held := .const none })
    loseLease
      { s2 with
        ports := s2.ports.map holdoverPort
        attn := s2.attn.map releasedLine
        strobes := .const .idle
        pru := holdoverPru s2.pru }
  else s

/-- Settle start, from HOLDOVER alone: a settle end 160 ticks away (R187). -/
def settleStart (s : State) : State :=
  if s.spm.supply = .holdover then setSupply (.settling (s.tbu.mono + settleTicks)) s else s

/-- Settle abort, from SETTLING alone: HOLDOVER again, the settle end removed (R187). -/
def settleAbort (s : State) : State :=
  match s.spm.supply with
  | .settling _ => setSupply .holdover s
  | _ => s

/-- The settle end is due (R3, R187). -/
def settleDue (s : State) : Bool :=
  match s.spm.supply with
  | .settling e => e == s.tbu.mono
  | _ => false

/-- The Port Controller of a port at resume: IDLE when the load is READY and SYSRSTN is not asserted, NOT_READY otherwise;
the receiver discards a transaction already under way (R169). -/
def resumePort (load : LoadState) (resetAsserted : Bool) (c : PortCtl) : PortCtl :=
  { c with
    state := if load = .ready ∧ resetAsserted = false then .idle else .notReady
    receiver := if c.select then .discarding else .waiting }

/-- The line of a port at resume takes up its mode: in LEVEL it follows the condition, in PULSE a pulse starts if the
condition is true (R138). -/
def resumeLine (mono : Mono) (condition : Bool) (a : Attn) : Attn :=
  match a.mode with
  | .level => levelLine condition a
  | .pulse => if condition then startedPulse mono a else releasedLine a

/-- RESUMED is set on a port and its line takes up its mode (R138, R189). -/
def resumeAttention (s : State) (p : Port) : State :=
  let a := s.attn.get p
  let s1 := s.setAttn p { a with flags := a.flags ||| flagBit .resumed }
  s1.setAttn p (resumeLine s.tbu.mono (attnCondition s1 p) (s1.attn.get p))

/-- The resume event (R189): a load that waited for the supply begins a read (R159). -/
def resumeEvent (s : State) : State :=
  let s1 := setSupply .main s
  let s2 := { s1 with ports := s1.ports.map (resumePort s.pru.load s.spm.resetAsserted) }
  let s3 := allPorts.foldl resumeAttention s2
  if s.pru.load = .waitingSupply then beginRead s3 else s3

/-- Resume at the expiry of the settle end; the system reset follows it if the reset input is ASSERTED (R189, R194). DESIGN
CHOICE (log 26): the firings of the tick that brings the count to the settle end have been taken before, in SETTLING (R68,
R145). -/
def resume (s : State) : State :=
  if settleDue s then
    (if s.spm.resetAsserted then systemReset (resumeEvent s) else resumeEvent s)
  else s

/-- VBAT falls below 2.0 V while PRESENT: LOW, with SUPPLY on every port (R191). -/
def backupLow (s : State) : State :=
  if s.spm.backup = .present then handFlagToAll .supply (s.setSpm { s.spm with backup := .low }) else s

/-- VBAT rises above 2.1 V while LOW: PRESENT, with SUPPLY on every port (R191). -/
def backupPresent (s : State) : State :=
  if s.spm.backup = .low then handFlagToAll .supply (s.setSpm { s.spm with backup := .present }) else s

/-- SYSRSTN is accepted low: the reset input becomes ASSERTED, and in MAIN a system reset is taken (R194). -/
def sysrstnAssertion (s : State) : State :=
  if s.spm.resetAsserted then s
  else
    let s1 := s.setSpm { s.spm with resetAsserted := true }
    if inMain s then systemReset s1 else s1

/-- SYSRSTN returns high: the reset input becomes RELEASED, and in MAIN with the controller HELD a read begins (R196). -/
def sysrstnRelease (s : State) : State :=
  if s.spm.resetAsserted then
    let s1 := s.setSpm { s.spm with resetAsserted := false }
    if inMain s ∧ s.pru.twoWire = .held then beginRead s1 else s1
  else s

end Sys2Proof.Machine
end

