-- ==== Sys2Proof/Machine/Limits.lean ====
section
/-! DEFINITION. The time limits that are due (R3): a limit expires at the tick that brings the monotonic count to its
end, so it is taken before any later event. -/

namespace Sys2Proof.Machine

/-- The frame limit of a port is due (R3, R173). -/
def frameLimitDue (s : State) (p : Port) : Bool :=
  match (s.ports.get p).receiver with
  | .receiving e _ _ => e == s.tbu.mono
  | _ => false

/-- The timeout of a transaction: the receiver becomes DISCARDING, and FRAME is set with cause TIMEOUT (R173). -/
def frameTimeout (p : Port) (s : State) : State :=
  if frameLimitDue s p then frameErrorAt p .timeout (discardTransaction p s) else s

/-- A limit of the part is due: lease end, settle end, a frame limit, an attention pulse or a strobe pulse. -/
def limitDue (s : State) : Bool :=
  leaseDue s || settleDue s || allPorts.any (frameLimitDue s) || allPorts.any (attnPulseDue s) ||
    allLines.any (strobePulseDue s)

/-- Take every limit that is due. DESIGN CHOICE (log 1): the expiry rows of the table take them one by one; every other
event finds them taken. -/
def takeDueLimits (s : State) : State :=
  if limitDue s then
    let s1 := leaseExpiry s
    let s2 := allPorts.foldl (fun s p => frameTimeout p s) s1
    let s3 := allPorts.foldl (fun s p => attnPulseEnd p s) s2
    let s4 := allLines.foldl (fun s l => strobePulseEnd l s) s3
    resume s4
  else s

end Sys2Proof.Machine
end

