-- ==== Sys2Proof/Machine/Events.lean ====
section
/-! DEFINITION. The meanings of the rows that stand for an event of the part: ticks, expiries, walk, supply, reset and
profile load. All but the expiries, SETTLE_ABORT and POWER_ON find the limits that are due taken (log 1). -/

namespace Sys2Proof.Machine

/-- OSCILLATOR_TICK (R1). -/
def execOscillatorTick (s : State) : Host.Outcome State Fault Refusal :=
  .next (oscillatorTick (takeDueLimits s))

/-- CRYSTAL_STOP (R15). -/
def execCrystalStop (s : State) : Host.Outcome State Fault Refusal :=
  .next (crystalStop (takeDueLimits s))

/-- CRYSTAL_TRANSITION (R15). -/
def execCrystalTransition (endsPeriod : Bool) (s : State) : Host.Outcome State Fault Refusal :=
  .next (crystalTransition endsPeriod (takeDueLimits s))

/-- LEASE_EXPIRY (R118). -/
def execLeaseExpiry (s : State) : Host.Outcome State Fault Refusal :=
  .next (leaseExpiry s)

/-- ATTENTION_PULSE_END (R136). -/
def execAttentionPulseEnd (p : Port) (s : State) : Host.Outcome State Fault Refusal :=
  .next (attnPulseEnd p s)

/-- STROBE_PULSE_END (R143). -/
def execStrobePulseEnd (l : Line) (s : State) : Host.Outcome State Fault Refusal :=
  .next (strobePulseEnd l s)

/-- WALK_VISIT (R70). -/
def execWalkVisit (s : State) : Host.Outcome State Fault Refusal :=
  .next (walkVisit (takeDueLimits s))

/-- END_OF_WALK (R78). -/
def execEndOfWalk (s : State) : Host.Outcome State Fault Refusal :=
  .next (endOfWalk (takeDueLimits s))

/-- FRAME_TIMEOUT (R173). -/
def execFrameTimeout (p : Port) (s : State) : Host.Outcome State Fault Refusal :=
  .next (frameTimeout p s)

/-- HOLDOVER_ENTRY (R188). -/
def execHoldoverEntry (s : State) : Host.Outcome State Fault Refusal :=
  .next (holdoverEntry (takeDueLimits s))

/-- SETTLE_START (R187). -/
def execSettleStart (s : State) : Host.Outcome State Fault Refusal :=
  .next (settleStart (takeDueLimits s))

/-- SETTLE_ABORT (R187). The fall is taken before a settle end that is due (R187; log 12). -/
def execSettleAbort (s : State) : Host.Outcome State Fault Refusal :=
  .next (settleAbort s)

/-- RESUME (R189). -/
def execResume (s : State) : Host.Outcome State Fault Refusal :=
  .next (resume s)

/-- BACKUP_LOW (R191). -/
def execBackupLow (s : State) : Host.Outcome State Fault Refusal :=
  .next (backupLow (takeDueLimits s))

/-- BACKUP_PRESENT (R191). -/
def execBackupPresent (s : State) : Host.Outcome State Fault Refusal :=
  .next (backupPresent (takeDueLimits s))

/-- POWER_ON (R193). -/
def execPowerOn (levels : PowerLevels) (s : State) : Host.Outcome State Fault Refusal :=
  .next (powerOn levels s)

/-- SYSRSTN_ASSERTION (R194). -/
def execSysrstnAssertion (s : State) : Host.Outcome State Fault Refusal :=
  .next (sysrstnAssertion (takeDueLimits s))

/-- SYSRSTN_RELEASE (R196). -/
def execSysrstnRelease (s : State) : Host.Outcome State Fault Refusal :=
  .next (sysrstnRelease (takeDueLimits s))

/-- PROFILE_LOAD_COMPLETE (R163). -/
def execProfileLoadComplete (transfer : ReadTransfer) (s : State) : Host.Outcome State Fault Refusal :=
  .next (profileLoadComplete transfer (takeDueLimits s))

end Sys2Proof.Machine
end

