-- ==== Sys2Proof/Machine/Frames.lean ====
section
/-! DEFINITION. The transactions of a port: the assertion of select, the release with the judgement of the frame, the
take, and the hand-over of each command to its block (08_host_ports.md). -/

namespace Sys2Proof.Machine

/-! ### The commands that the Port Controller owns -/

/-- IDENTIFY (R182). -/
def runIdentify (p : Port) (s : State) : State :=
  complete p .ok [0x47, 0x4C, 0x01, 0x04, 0x60, 0x10, 0x04, portCode p] s

/-- SELF_RESET: the port reset of the issuing port, and no response (R183). -/
def runSelfReset (p : Port) (s : State) : State := portReset p s

/-! ### From take to completion -/

/-- Hand a known command with a payload of the right length to its owning block (R178). -/
def runCommand (p : Port) (code : Byte) (payload : List Byte) (s : State) : State :=
  if code = codeIdentify then runIdentify p s
  else if code = codeSelfReset then runSelfReset p s
  else if code = codeReadTime then runReadTime p s
  else if code = codeReadCalendar then runReadCalendar p s
  else if code = codeClaimAuthority then runClaimAuthority p payload s
  else if code = codeReleaseAuthority then runReleaseAuthority p s
  else if code = codeStepTime then withAuthority p (handToAgenda p (.step payload)) s
  else if code = codeSlewTime then withAuthority p (runSlewTime p payload) s
  else if code = codeSetTrim then withAuthority p (runSetTrim p payload) s
  else if code = codeCreateEntry then handToAgenda p (.create payload) s
  else if code = codeCancelEntry then handToAgenda p (.cancel payload) s
  else if code = codeQueryEntry then handToAgenda p (.query payload) s
  else if code = codeListOwn then handToAgenda p .listOwn s
  else if code = codeTakeNotices then runTakeNotices p payload s
  else if code = codeAckNotices then runAckNotices p payload s
  else if code = codeReadFlags then runReadFlags p s
  else if code = codeClearFlags then runClearFlags p payload s
  else if code = codeSetAttention then runSetAttention p payload s
  else if code = codeReadProfile then runReadProfile p payload s
  else if code = codeSetProfile then withAdmin p (runSetProfile p payload) s
  else if code = codeSetStrobeMap then withAdmin p (runSetStrobeMap p payload) s
  else if code = codeResetPort then withAdmin p (runResetPort p payload) s
  else complete p .unknownCommand [] s

/-- The port-level judgement of a taken command: the code, then the payload length, then the hand-over (R177, R178). -/
def judgeCommand (p : Port) (code : Byte) (payload : List Byte) (s : State) : State :=
  match payloadLength code with
  | none => complete p .unknownCommand [] s
  | some n => if payload.length = n then runCommand p code payload s else complete p .badLength [] s

/-- A REQUEST that passed the structural checks, judged against the port state at the release: NOT_READY and BUSY are
frame errors, and in IDLE and DONE the command is taken (R172, R174). An OFFLINE port receives nothing (R169). -/
def judgeRequest (p : Port) (code seq : Byte) (payload : List Byte) (s : State) : State :=
  match (s.ports.get p).state with
  | .notReady => frameErrorAt p .notReady s
  | .working _ => frameErrorAt p .busy s
  | .idle => judgeCommand p code payload (takeCommand p code seq payload s)
  | .done _ => judgeCommand p code payload (takeCommand p code seq payload s)
  | .offline => s

/-- A transaction judged at its release, from what was received and the bits of an incomplete byte (R171). -/
def judgeTransaction (p : Port) (r : Received) (bits : Fin 8) (s : State) : State :=
  match judgeReceived r bits with
  | .error cause => frameErrorAt p cause s
  | .collect => s
  | .request code seq payload => judgeRequest p code seq payload s

/-! ### Select -/

/-- The snapshot of a transaction: the status byte and the collect reply as they stand (R166). -/
def snapshotOf (s : State) (p : Port) : Snapshot := ⟨statusByte s p, collectReply (s.ports.get p).state⟩

/-- The port is OFFLINE and ignores its lines (R169). -/
def isOffline (c : PortCtl) : Bool := c.state == .offline

/-- The bytes that the port has shifted out in a transaction once the host has clocked these further bytes: those of the
snapshot while RECEIVING; in DISCARDING what was shifted out before the event that discarded the transaction, and 00h for
every byte from that event on (R166, R168, R169, R173, R184); nothing more while data out is at high impedance (R165, R169).
The record is the model's own (log 7). -/
def transactionOut (c : PortCtl) (bytes : List Byte) : List Byte :=
  if dataOutDriven c then
    match c.receiver with
    | .receiving _ snap received => receivedOut snap (receiveBytes received bytes)
    | _ => c.dout ++ List.replicate bytes.length 0
  else c.dout

/-- The receiver once the host has clocked these bytes: it receives them while RECEIVING, and takes no notice of them
otherwise (R165, R170, R173, R175; log 6). -/
def receiverClocked (r : Receiver) (bytes : List Byte) : Receiver :=
  match r with
  | .receiving limit snap received => .receiving limit snap (receiveBytes received bytes)
  | .waiting => .waiting
  | .discarding => .discarding

/-- The Port Controller of a port once the host has clocked these bytes while select is asserted (R165, R166, R170). An
OFFLINE port ignores the clock (R169). -/
def clocked (c : PortCtl) (bytes : List Byte) : PortCtl :=
  if isOffline c then c else { c with receiver := receiverClocked c.receiver bytes, dout := transactionOut c bytes }

/-- The receiver after the assertion of select: one that is WAITING becomes RECEIVING with its frame limit and snapshot,
unless the port is OFFLINE (R166, R169). -/
def assertedReceiver (p : Port) (s : State) : Receiver :=
  let c := s.ports.get p
  match c.receiver with
  | .waiting =>
    if isOffline c then .waiting else .receiving (s.tbu.mono + frameLimitTicks) (snapshotOf s p) noneReceived
  | r => r

/-- The assertion of select, and the bytes that the host clocks after it (R165, R166). A select that is asserted already
has no such event (log 2). -/
def selectAssertion (p : Port) (bytes : List Byte) (s : State) : State :=
  let c := s.ports.get p
  if c.select then s
  else s.setPort p (clocked { c with select := true, receiver := assertedReceiver p s, dout := [] } bytes)

/-- The Port Controller of a port once select is released after these further bytes: the receiver is WAITING, with no limit
and no snapshot (R165, R171). An OFFLINE port ignores the line (R169; log 25). -/
def releasedCtl (c : PortCtl) (bytes : List Byte) : PortCtl :=
  { c with
    select := false
    receiver := if isOffline c then c.receiver else .waiting
    dout := transactionOut c bytes }

/-- The release of select after these further bytes: a receiver that is RECEIVING judges the transaction, unless it is
empty; one that is DISCARDING judges nothing (R165, R171, R173). Without an asserted select there is no such event. -/
def releaseSelect (p : Port) (bytes : List Byte) (bits : Fin 8) (s : State) : State :=
  let c := s.ports.get p
  if c.select then
    let s1 := s.setPort p (releasedCtl c bytes)
    match c.receiver with
    | .receiving _ _ received =>
      let all := receiveBytes received bytes
      if isOffline c || (all.count == 0 && bits == 0) then s1 else judgeTransaction p all bits s1
    | _ => s1
  else s

/-- The release of select after the REQUEST frame of a command (R170). -/
def sendRequest (p : Port) (code seq : Byte) (payload : List Byte) (s : State) : State :=
  releaseSelect p (requestFrame code seq payload) 0 s

end Sys2Proof.Machine
end

