-- ==== Sys2Proof/Machine/Transactions.lean ====
section
/-! DEFINITION. The meanings of the rows that stand for a transaction at a port: SELECT_ASSERTION, the releases, and the
22 commands. Each finds the limits that are due taken (log 1). -/

namespace Sys2Proof.Machine

/-- SELECT_ASSERTION (R166), and the bytes that the host clocks after it. -/
def execSelectAssertion (x : Assertion) (s : State) : Host.Outcome State Fault Refusal :=
  .next (selectAssertion x.port x.bytes (takeDueLimits s))

/-- FRAME_ERROR (R171, R172): select is released after these bytes, and the judgement decides (log 8). -/
def execFrameError (p : Port) (bytes : List Byte) (bits : Fin 8) (s : State) : Host.Outcome State Fault Refusal :=
  .next (releaseSelect p bytes bits (takeDueLimits s))

/-- EMPTY_TRANSACTION (R165, R173). -/
def execEmptyTransaction (p : Port) (s : State) : Host.Outcome State Fault Refusal :=
  .next (releaseSelect p [] 0 (takeDueLimits s))

/-- COLLECT (R176). -/
def execCollect (p : Port) (after : List Byte) (bits : Fin 8) (s : State) : Host.Outcome State Fault Refusal :=
  .next (releaseSelect p (collectMarker :: after) bits (takeDueLimits s))

/-- UNKNOWN_COMMAND (R177): a REQUEST frame with this code (log 8). -/
def execUnknownCommand (p : Port) (code seq : Byte) (payload : List Byte) (s : State) :
    Host.Outcome State Fault Refusal :=
  .next (sendRequest p code seq payload (takeDueLimits s))

/-- IDENTIFY (R182): the release of select after its REQUEST frame. -/
def execIdentify (p : Port) (seq : Byte) (payload : List Byte) (s : State) : Host.Outcome State Fault Refusal :=
  .next (sendRequest p codeIdentify seq payload (takeDueLimits s))

/-- SELF_RESET (R183): the release of select after its REQUEST frame. -/
def execSelfReset (p : Port) (seq : Byte) (payload : List Byte) (s : State) : Host.Outcome State Fault Refusal :=
  .next (sendRequest p codeSelfReset seq payload (takeDueLimits s))

/-- READ_TIME (R22): the release of select after its REQUEST frame. -/
def execReadTime (p : Port) (seq : Byte) (payload : List Byte) (s : State) : Host.Outcome State Fault Refusal :=
  .next (sendRequest p codeReadTime seq payload (takeDueLimits s))

/-- READ_CALENDAR (R23): the release of select after its REQUEST frame. -/
def execReadCalendar (p : Port) (seq : Byte) (payload : List Byte) (s : State) : Host.Outcome State Fault Refusal :=
  .next (sendRequest p codeReadCalendar seq payload (takeDueLimits s))

/-- CLAIM_AUTHORITY (R114, R115): the release of select after its REQUEST frame. -/
def execClaimAuthority (p : Port) (seq : Byte) (payload : List Byte) (s : State) : Host.Outcome State Fault Refusal :=
  .next (sendRequest p codeClaimAuthority seq payload (takeDueLimits s))

/-- RELEASE_AUTHORITY (R117): the release of select after its REQUEST frame. -/
def execReleaseAuthority (p : Port) (seq : Byte) (payload : List Byte) (s : State) : Host.Outcome State Fault Refusal :=
  .next (sendRequest p codeReleaseAuthority seq payload (takeDueLimits s))

/-- STEP_TIME (R17): the release of select after its REQUEST frame. -/
def execStepTime (p : Port) (seq : Byte) (payload : List Byte) (s : State) : Host.Outcome State Fault Refusal :=
  .next (sendRequest p codeStepTime seq payload (takeDueLimits s))

/-- SLEW_TIME (R13): the release of select after its REQUEST frame. -/
def execSlewTime (p : Port) (seq : Byte) (payload : List Byte) (s : State) : Host.Outcome State Fault Refusal :=
  .next (sendRequest p codeSlewTime seq payload (takeDueLimits s))

/-- SET_TRIM (R10): the release of select after its REQUEST frame. -/
def execSetTrim (p : Port) (seq : Byte) (payload : List Byte) (s : State) : Host.Outcome State Fault Refusal :=
  .next (sendRequest p codeSetTrim seq payload (takeDueLimits s))

/-- CREATE_ENTRY (R43): the release of select after its REQUEST frame. -/
def execCreateEntry (p : Port) (seq : Byte) (payload : List Byte) (s : State) : Host.Outcome State Fault Refusal :=
  .next (sendRequest p codeCreateEntry seq payload (takeDueLimits s))

/-- CANCEL_ENTRY (R50): the release of select after its REQUEST frame. -/
def execCancelEntry (p : Port) (seq : Byte) (payload : List Byte) (s : State) : Host.Outcome State Fault Refusal :=
  .next (sendRequest p codeCancelEntry seq payload (takeDueLimits s))

/-- QUERY_ENTRY (R53): the release of select after its REQUEST frame. -/
def execQueryEntry (p : Port) (seq : Byte) (payload : List Byte) (s : State) : Host.Outcome State Fault Refusal :=
  .next (sendRequest p codeQueryEntry seq payload (takeDueLimits s))

/-- LIST_OWN (R54): the release of select after its REQUEST frame. -/
def execListOwn (p : Port) (seq : Byte) (payload : List Byte) (s : State) : Host.Outcome State Fault Refusal :=
  .next (sendRequest p codeListOwn seq payload (takeDueLimits s))

/-- TAKE_NOTICES (R98): the release of select after its REQUEST frame. -/
def execTakeNotices (p : Port) (seq : Byte) (payload : List Byte) (s : State) : Host.Outcome State Fault Refusal :=
  .next (sendRequest p codeTakeNotices seq payload (takeDueLimits s))

/-- ACK_NOTICES (R100): the release of select after its REQUEST frame. -/
def execAckNotices (p : Port) (seq : Byte) (payload : List Byte) (s : State) : Host.Outcome State Fault Refusal :=
  .next (sendRequest p codeAckNotices seq payload (takeDueLimits s))

/-- READ_FLAGS (R130): the release of select after its REQUEST frame. -/
def execReadFlags (p : Port) (seq : Byte) (payload : List Byte) (s : State) : Host.Outcome State Fault Refusal :=
  .next (sendRequest p codeReadFlags seq payload (takeDueLimits s))

/-- CLEAR_FLAGS (R131): the release of select after its REQUEST frame. -/
def execClearFlags (p : Port) (seq : Byte) (payload : List Byte) (s : State) : Host.Outcome State Fault Refusal :=
  .next (sendRequest p codeClearFlags seq payload (takeDueLimits s))

/-- SET_ATTENTION (R134): the release of select after its REQUEST frame. -/
def execSetAttention (p : Port) (seq : Byte) (payload : List Byte) (s : State) : Host.Outcome State Fault Refusal :=
  .next (sendRequest p codeSetAttention seq payload (takeDueLimits s))

/-- READ_PROFILE (R158): the release of select after its REQUEST frame. -/
def execReadProfile (p : Port) (seq : Byte) (payload : List Byte) (s : State) : Host.Outcome State Fault Refusal :=
  .next (sendRequest p codeReadProfile seq payload (takeDueLimits s))

/-- SET_PROFILE (R151): the release of select after its REQUEST frame. -/
def execSetProfile (p : Port) (seq : Byte) (payload : List Byte) (s : State) : Host.Outcome State Fault Refusal :=
  .next (sendRequest p codeSetProfile seq payload (takeDueLimits s))

/-- SET_STROBE_MAP (R151): the release of select after its REQUEST frame. -/
def execSetStrobeMap (p : Port) (seq : Byte) (payload : List Byte) (s : State) : Host.Outcome State Fault Refusal :=
  .next (sendRequest p codeSetStrobeMap seq payload (takeDueLimits s))

/-- RESET_PORT (R156): the release of select after its REQUEST frame. -/
def execResetPort (p : Port) (seq : Byte) (payload : List Byte) (s : State) : Host.Outcome State Fault Refusal :=
  .next (sendRequest p codeResetPort seq payload (takeDueLimits s))

end Sys2Proof.Machine
end

