-- ==== Sys2Proof/Machine/Dispatch.lean ====
section
/-! DEFINITION. One arm per command, each one call of its meaning. -/

namespace Sys2Proof.Machine

def exec (i : Instr) (s : State) : Host.Outcome State Fault Refusal :=
  match i with
  | .oscillatorTick => Sys2Proof.Machine.execOscillatorTick s
  | .crystalStop => Sys2Proof.Machine.execCrystalStop s
  | .crystalTransition endsPeriod => Sys2Proof.Machine.execCrystalTransition endsPeriod s
  | .leaseExpiry => Sys2Proof.Machine.execLeaseExpiry s
  | .attentionPulseEnd p => Sys2Proof.Machine.execAttentionPulseEnd p s
  | .strobePulseEnd l => Sys2Proof.Machine.execStrobePulseEnd l s
  | .walkVisit => Sys2Proof.Machine.execWalkVisit s
  | .endOfWalk => Sys2Proof.Machine.execEndOfWalk s
  | .selectAssertion x => Sys2Proof.Machine.execSelectAssertion x s
  | .frameTimeout p => Sys2Proof.Machine.execFrameTimeout p s
  | .frameError p bytes bits => Sys2Proof.Machine.execFrameError p bytes bits s
  | .emptyTransaction p => Sys2Proof.Machine.execEmptyTransaction p s
  | .collect p after bits => Sys2Proof.Machine.execCollect p after bits s
  | .unknownCommand p code seq payload => Sys2Proof.Machine.execUnknownCommand p code seq payload s
  | .identify p seq payload => Sys2Proof.Machine.execIdentify p seq payload s
  | .selfReset p seq payload => Sys2Proof.Machine.execSelfReset p seq payload s
  | .readTime p seq payload => Sys2Proof.Machine.execReadTime p seq payload s
  | .readCalendar p seq payload => Sys2Proof.Machine.execReadCalendar p seq payload s
  | .claimAuthority p seq payload => Sys2Proof.Machine.execClaimAuthority p seq payload s
  | .releaseAuthority p seq payload => Sys2Proof.Machine.execReleaseAuthority p seq payload s
  | .stepTime p seq payload => Sys2Proof.Machine.execStepTime p seq payload s
  | .slewTime p seq payload => Sys2Proof.Machine.execSlewTime p seq payload s
  | .setTrim p seq payload => Sys2Proof.Machine.execSetTrim p seq payload s
  | .createEntry p seq payload => Sys2Proof.Machine.execCreateEntry p seq payload s
  | .cancelEntry p seq payload => Sys2Proof.Machine.execCancelEntry p seq payload s
  | .queryEntry p seq payload => Sys2Proof.Machine.execQueryEntry p seq payload s
  | .listOwn p seq payload => Sys2Proof.Machine.execListOwn p seq payload s
  | .takeNotices p seq payload => Sys2Proof.Machine.execTakeNotices p seq payload s
  | .ackNotices p seq payload => Sys2Proof.Machine.execAckNotices p seq payload s
  | .readFlags p seq payload => Sys2Proof.Machine.execReadFlags p seq payload s
  | .clearFlags p seq payload => Sys2Proof.Machine.execClearFlags p seq payload s
  | .setAttention p seq payload => Sys2Proof.Machine.execSetAttention p seq payload s
  | .readProfile p seq payload => Sys2Proof.Machine.execReadProfile p seq payload s
  | .setProfile p seq payload => Sys2Proof.Machine.execSetProfile p seq payload s
  | .setStrobeMap p seq payload => Sys2Proof.Machine.execSetStrobeMap p seq payload s
  | .resetPort p seq payload => Sys2Proof.Machine.execResetPort p seq payload s
  | .holdoverEntry => Sys2Proof.Machine.execHoldoverEntry s
  | .settleStart => Sys2Proof.Machine.execSettleStart s
  | .settleAbort => Sys2Proof.Machine.execSettleAbort s
  | .resume => Sys2Proof.Machine.execResume s
  | .backupLow => Sys2Proof.Machine.execBackupLow s
  | .backupPresent => Sys2Proof.Machine.execBackupPresent s
  | .powerOn levels => Sys2Proof.Machine.execPowerOn levels s
  | .sysrstnAssertion => Sys2Proof.Machine.execSysrstnAssertion s
  | .sysrstnRelease => Sys2Proof.Machine.execSysrstnRelease s
  | .profileLoadComplete transfer => Sys2Proof.Machine.execProfileLoadComplete transfer s

end Sys2Proof.Machine
end

