-- ==== Sys2Proof/Safety.lean ====
section
/-! DEFINITION. The terms that statements about the part use: a port that is ready for a command, the states in which a
transaction leaves its port, and what every state of a part in order satisfies. -/

namespace Sys2Proof.Machine

/-! ### Transactions -/

/-- A port is RECEIVING a transaction with this snapshot, and no byte of it has been clocked yet (R166; log 6). -/
def Selected (p : Port) (snap : Snapshot) (s : State) : Prop :=
  (s.ports.get p).select = true ∧ ∃ limit, (s.ports.get p).receiver = .receiving limit snap noneReceived

/-- A port state in which a REQUEST is taken: IDLE or DONE (R172). -/
def acceptsRequest (st : PortState) : Bool :=
  match st with
  | .idle => true
  | .done _ => true
  | .notReady => false
  | .working _ => false
  | .offline => false

/-- A port is RECEIVING, it may take a command, and no time limit is due (R3, R172). -/
def Ready (p : Port) (snap : Snapshot) (s : State) : Prop :=
  Selected p snap s ∧ acceptsRequest (s.ports.get p).state = true ∧ limitDue s = false

/-- The state after a transaction of these bytes was judged, with this port state: select is released, the receiver is
WAITING, and the snapshot has been shifted out (R166, R170, R171). The record of the shifted bytes is the model's own
(log 7). -/
def transacted (p : Port) (snap : Snapshot) (bytes : List Byte) (st : PortState) (s : State) : State :=
  s.setPort p ⟨false, st, .waiting, shiftedOut snap bytes⟩

/-- The state after a command was taken and is outstanding (R174, R178). -/
def outstanding (p : Port) (snap : Snapshot) (code seq : Byte) (payload : List Byte) (held : Bool) (s : State) : State :=
  transacted p snap (requestFrame code seq payload) (.working ⟨code, seq, payload, held⟩) s

/-- The state after a command was taken and completed with this result and response payload (R174, R179). -/
def answered (p : Port) (snap : Snapshot) (code seq : Byte) (payload : List Byte) (r : Result) (out : List Byte)
    (s : State) : State :=
  transacted p snap (requestFrame code seq payload) (.done ⟨code, seq, r, out⟩) s

/-- The rows that stand for the expiry of a time limit, with SETTLE_ABORT and POWER_ON, which are taken whatever limit is
due (R3, R187, R193; logs 1, 12). -/
def takesNoDueLimit (c : Instr) : Bool :=
  match c with
  | .leaseExpiry => true
  | .attentionPulseEnd _ => true
  | .strobePulseEnd _ => true
  | .frameTimeout _ => true
  | .resume => true
  | .settleAbort => true
  | .powerOn _ => true
  | _ => false

/-- Run rows one after the other, up to the first that answers no next state. -/
def runRows : List Instr → State → Host.Outcome State Fault Refusal
  | [], s => .next s
  | c :: rest, s =>
    match exec c s with
    | .next t => runRows rest t
    | o => o

/-- The rows that take the time limits, in the order in which other rows find them taken (R3; log 1). -/
def expiryRows : List Instr :=
  [.leaseExpiry] ++ allPorts.map .frameTimeout ++ allPorts.map .attentionPulseEnd ++ allLines.map .strobePulseEnd ++
    [.resume]

/-- A command: its code, the length of its payload (10.3), and its row, from port, sequence byte and payload. -/
structure CommandRow where
  code : Byte
  length : Nat
  row : Port → Byte → List Byte → Instr

/-- The 22 commands (10.3). -/
def commandTable : List CommandRow :=
  [⟨0x01, 0, .identify⟩, ⟨0x02, 0, .selfReset⟩, ⟨0x10, 0, .readTime⟩, ⟨0x11, 0, .readCalendar⟩,
    ⟨0x12, 2, .claimAuthority⟩, ⟨0x13, 0, .releaseAuthority⟩, ⟨0x14, 8, .stepTime⟩, ⟨0x15, 4, .slewTime⟩,
    ⟨0x16, 1, .setTrim⟩, ⟨0x20, 25, .createEntry⟩, ⟨0x21, 1, .cancelEntry⟩, ⟨0x22, 1, .queryEntry⟩,
    ⟨0x23, 0, .listOwn⟩, ⟨0x30, 1, .takeNotices⟩, ⟨0x31, 2, .ackNotices⟩, ⟨0x40, 0, .readFlags⟩,
    ⟨0x41, 2, .clearFlags⟩, ⟨0x42, 3, .setAttention⟩, ⟨0x50, 1, .readProfile⟩, ⟨0x51, 7, .setProfile⟩,
    ⟨0x52, 4, .setStrobeMap⟩, ⟨0x53, 1, .resetPort⟩]

/-- The rows that stand for the release of select after a REQUEST frame with this payload (R170, R177; log 8). -/
def requestRows (p : Port) (code seq : Byte) (payload : List Byte) : List Instr :=
  .unknownCommand p code seq payload :: commandTable.map fun c => c.row p seq payload

/-! ### Bytes that hosts and memories send -/

/-- The bytes of a strobe action in a CREATE_ENTRY (10.5, R200). -/
def strobeActionBytes (a : Option StrobeAction) : List Byte :=
  match a with
  | none => [0xFF, 0x00]
  | some x => [lineCode x.line, x.width]

/-- The 16 bytes of the timing block of a CREATE_ENTRY, unused bytes 0 (10.5). -/
def timingBytes (t : Timing) : List Byte :=
  match t with
  | .oneShotWall due => timeBytes due ++ List.replicate 10 0
  | .oneShotElapsed delay => List.replicate 6 0 ++ toBytes 5 delay.toNat ++ List.replicate 5 0
  | .periodicWall anchor per => timeBytes anchor ++ List.replicate 5 0 ++ toBytes 5 per.toNat
  | .periodicElapsed delay per => List.replicate 6 0 ++ toBytes 5 delay.toNat ++ toBytes 5 per.toNat
  | .calendar pat => patternBytes pat ++ List.replicate 10 0

/-- The kind of an entry with this timing (R30). -/
def Timing.kind (t : Timing) : Kind := t.schedule.kind

/-- The reference of an entry with this timing (R30). -/
def Timing.reference (t : Timing) : Reference := t.schedule.reference

/-- The 25 bytes of a CREATE_ENTRY payload (10.5). -/
def createPayload (tag : Half) (policy : StepPolicy) (notify persist : Bool) (strobe : Option StrobeAction) (t : Timing) :
    List Byte :=
  toBytes 2 tag.toNat ++
    [kindCode t.kind, referenceCode t.reference, policyCode policy, boolCode notify, boolCode persist] ++
    strobeActionBytes strobe ++ timingBytes t

/-- A numeric field of a pattern is ANY or lies in its range (R35). -/
def fieldInRange (f : Option Nat) (lo hi : Nat) : Bool :=
  match f with
  | none => true
  | some x => decide (lo ≤ x) && decide (x ≤ hi)

/-- Every field of a pattern lies in its range (R35). -/
def patternInRange (pat : Pattern) : Bool :=
  fieldInRange pat.second 0 59 && fieldInRange pat.minute 0 59 && fieldInRange pat.hour 0 23 &&
    fieldInRange pat.month 1 12 &&
    match pat.day with
    | .any => true
    | .monthday d => decide (1 ≤ d) && decide (d ≤ 31)
    | .weekdays s => s != 0

/-- Every timing field lies in its range (R31 to R35). -/
def timingInRange (t : Timing) : Bool :=
  match t with
  | .oneShotWall _ => true
  | .oneShotElapsed delay => delay != 0
  | .periodicWall _ per => decide (16 ≤ per.toNat)
  | .periodicElapsed delay per => delay != 0 && decide (16 ≤ per.toNat)
  | .calendar pat => patternInRange pat

/-- A strobe action that is present has a width of at least 1 (R44 check 1). -/
def strobeInRange (a : Option StrobeAction) : Bool :=
  match a with
  | none => true
  | some x => x.width != 0

/-- Every field of a profile record lies in its range (R147). -/
def profileInRange (r : Profile) : Bool :=
  decide (1 ≤ r.maxLease.toNat) && decide (r.maxLease.toNat ≤ 3600) && decide (r.base.toNat ≤ 95) &&
    decide (r.limit.toNat ≤ 95) && decide (r.quota.toNat ≤ 96)

/-- The first 31 bytes of the image that holds these tables (10.7). -/
def imageBody (t : PerPort Profile) (m : PerLine StrobeRecord) : List Byte :=
  [0x43, 0x54, 0x01] ++ profileBytes t.a ++ profileBytes t.b ++ profileBytes t.c ++ profileBytes t.d ++ strobeMapBytes m

/-- The profile image that holds these tables: 31 bytes and their sum modulo 65536 (10.7, R162). -/
def profileImage (t : PerPort Profile) (m : PerLine StrobeRecord) : List Byte :=
  let body := imageBody t m
  body ++ toBytes 2 ((body.map (·.toNat)).sum % 65536)

/-- What the two-wire controller does in a read whose byte `k` is the first that the memory does not acknowledge (R160,
steps 2 and 3; R161). -/
def refusedItems : Nat → List BusItem
  | 0 => [.start, .sent 0xA0 false, .stop]
  | 1 => [.start, .sent 0xA0 true, .sent 0x00 false, .stop]
  | _ => [.start, .sent 0xA0 true, .sent 0x00 true, .repeatedStart, .sent 0xA1 false, .stop]

/-- What the two-wire controller does in a read of these 33 bytes (R160, steps 2 to 5). -/
def readItems (bytes : List Byte) : List BusItem :=
  [.start, .sent 0xA0 true, .sent 0x00 true, .repeatedStart, .sent 0xA1 true] ++
    bytes.mapIdx (fun i byte => .received byte (decide (i < 32))) ++ [.stop]

/-- The 8 bytes of a STEP_TIME payload (10.4). -/
def stepTimePayload (mode direction : Byte) (seconds ticks : Nat) : List Byte :=
  [mode, direction] ++ toBytes 4 seconds ++ toBytes 2 ticks

/-! ### The tick, by the table of R5 -/

/-- The trim effect that the table of R5 gives for the tick that brings the monotonic count to `m`. -/
def trimRow (t : Tbu) (m : Mono) : Int :=
  if isTrimTick t.trim m = true ∧ 0 < t.trim then 1
  else if isTrimTick t.trim m = true ∧ t.trim < 0 then -1
  else 0

/-- The slew effect that the table of R5 gives for the tick that brings the monotonic count to `m`, with the exception of
a coincident negative trim adjustment. -/
def slewRow (t : Tbu) (m : Mono) : Int :=
  if m.toNat % 64 = 0 ∧ 0 < t.slew then 1
  else if m.toNat % 64 = 0 ∧ t.slew < 0 ∧ trimRow t m ≠ -1 then -1
  else 0

/-- The TBU after a tick that advances by `adv`: the counts of R1 and R2, the timeline stopped at the last value (R6), the
slew moved toward 0 unless the timeline stood there (R6, R11), and the validity of a range-end event (R6, R14; log 10). At the
last value, too, `adv` is taken with the trim and slew effects (log 28). The monitor is RUNNING, since a tick is a crystal
transition (log 9). -/
def ticked (t : Tbu) (adv : Nat) : Tbu where
  divider := 0
  mono := t.mono + 1
  timeline := timeOf (min lastTime.toNat (t.timeline.toNat + adv))
  trim := t.trim
  slew := if t.timeline = lastTime then t.slew else t.slew - slewRow t (t.mono + 1)
  validity := if lastTime.toNat < t.timeline.toNat + adv then .suspect else t.validity
  monitor := .running

/-- A tick completes a slew: it moves the slew remaining from a value that is not 0 to 0 (R12). -/
def completesSlew (before after : Tbu) : Bool := before.slew != 0 && after.slew == 0

/-- The part after a tick took the TBU to `x` and its flags were handed over, before the agenda is compared (R12, R14,
R27). -/
def tickFlagged (x : Tbu) (s : State) : State :=
  let s1 := { s with tbu := x }
  let s2 := if completesSlew s.tbu x = true then handFlagToAll .timeAdjusted s1 else s1
  if x.validity ≠ s.tbu.validity then handFlagToAll .validity s2 else s2

/-! ### Flags and attention lines -/

/-- Two ASU states of a port agree in all but the line and its pulse end. -/
def sameSetup (a b : Attn) : Prop :=
  a.flags = b.flags ∧ a.cause = b.cause ∧ a.enables = b.enables ∧ a.mode = b.mode

/-- The attention line of a port answers an event that took `s` to `t`: outside MAIN it stays; in LEVEL it follows the
condition; in PULSE a rise of the condition starts a pulse of 64 ticks, a fall ends it, and nothing else acts (R135 to
R138). -/
def lineAnswers (p : Port) (s t : State) : Prop :=
  (s.spm.supply ≠ .main →
    (t.attn.get p).line = (s.attn.get p).line ∧ (t.attn.get p).pulseEnd = (s.attn.get p).pulseEnd) ∧
  (s.spm.supply = .main → (t.attn.get p).mode = .level →
    ((t.attn.get p).line = .driven ↔ attnCondition t p = true) ∧ (t.attn.get p).pulseEnd = none) ∧
  (s.spm.supply = .main → (t.attn.get p).mode = .pulse →
    (attnCondition s p = false → attnCondition t p = true →
      (t.attn.get p).line = .driven ∧ (t.attn.get p).pulseEnd = some (s.tbu.mono + 64)) ∧
    (attnCondition s p = true → attnCondition t p = false →
      (t.attn.get p).line = .released ∧ (t.attn.get p).pulseEnd = none) ∧
    (attnCondition s p = attnCondition t p →
      (t.attn.get p).line = (s.attn.get p).line ∧ (t.attn.get p).pulseEnd = (s.attn.get p).pulseEnd))

/-- The flags that a step of port `p` hands over to port `r`: TIME_ADJUSTED to every port but `p`, then VALIDITY if validity
changes (R14, R19). -/
def stepFlagged (p r : Port) (s : State) : State :=
  let s1 := if r = p then s else handFlag .timeAdjusted r s
  if s.tbu.validity = .valid then s1 else handFlag .validity r s1

/-! ### Dates -/

/-- The days from 2001-01-01 to the first day of a year (R8). -/
def daysBeforeYear (y : Nat) : Nat := ((List.range' 2001 (y - 2001)).map yearDays).sum

/-- The days from the first day of a year to the first day of a month (R8). -/
def daysBeforeMonth (y m : Nat) : Nat := ((List.range' 1 (m - 1)).map (monthDays y)).sum

/-! ### Visits and firings -/

/-- What a visit of the walk makes of the due of an ARMED entry, and how much its missed accumulator rises, by the tables
of R71, R72 and R74; `none` where the entry ends (R73). A WALL entry is overtaken when the delta is above 0 and its due lies
at or before the new value. A pattern without a next match where R71 and R74 say that one exists keeps its due (log 15). -/
def realigned (w : Walk) (e : Entry) (due : Time) : Option (Time × Nat) :=
  if e.schedule.reference = .elapsed then
    some (timeOf (min lastTime.toNat ((due.toNat : Int) + w.delta).toNat), 0)
  else if 0 < w.delta ∧ due ≤ w.newValue then
    match e.policy, e.schedule with
    | .fireLate, _ => some (due, 0)
    | .skip, .periodicWall per _ =>
      let k := (w.newValue.toNat - due.toNat) / per.toNat + 1
      if due.toNat + k * per.toNat ≤ lastTime.toNat then some (timeOf (due.toNat + k * per.toNat), k) else none
    | .skip, .calendar pat => (nextMatch pat w.newValue).map fun d => (d, 1)
    | .skip, _ => none
  else
    match e.schedule with
    | .calendar pat => some ((nextMatch pat w.newValue).getD due, 0)
    | .periodicWall per anchor =>
      if w.delta < 0 then
        let d := gridAfter anchor.toNat per.toNat w.newValue.toNat
        some (if d ≤ lastTime.toNat then timeOf d else due, 0)
      else some (due, 0)
    | _ => some (due, 0)

/-- A visit counts the entry as skipped: it is treated under a SKIP row of R71 (R75). -/
def countsAsSkipped (w : Walk) (e : Entry) (due : Time) : Bool :=
  e.schedule.reference == .wall && e.policy == .skip && decide (0 < w.delta) && decide (due ≤ w.newValue)

/-- The terminal report of an entry that a visit ends, at timeline value `v` (R66, R73): SKIPPED with missed count 1 for a
ONE_SHOT entry; EXHAUSTED with the accumulator that the visit left for the others. -/
def visitReport (w : Walk) (e : Entry) (due : Time) (v : Time) (holdover : Bool) : Report :=
  match e.schedule with
  | .periodicWall per _ =>
    let m := min (e.missed.toNat + ((w.newValue.toNat - due.toNat) / per.toNat + 1)) 65535
    ⟨.exhausted, 0, 0, BitVec.ofNat 16 m, v, v, ⟨holdover, false, m == 65535⟩⟩
  | .calendar _ =>
    let m := min (e.missed.toNat + 1) 65535
    ⟨.exhausted, 0, 0, BitVec.ofNat 16 m, v, v, ⟨holdover, false, m == 65535⟩⟩
  | _ => ⟨.skipped, 0, 0, 1, v, v, ⟨holdover, false, false⟩⟩

/-- The end cause of an entry that a visit ends (R73). -/
def visitCause (e : Entry) : EndCause := if e.schedule.kind = .oneShot then .skipped else .exhausted

/-- Two records of one slot agree in the fixed fields (R29). -/
def sameFixedFields (a b : Entry) : Prop :=
  a.owner = b.owner ∧ a.tag = b.tag ∧ a.schedule = b.schedule ∧ a.policy = b.policy ∧ a.notify = b.notify ∧
    a.strobe = b.strobe ∧ a.persist = b.persist

/-- The occurrence of a firing at `v` of an entry due at `due` that advances against `ref`: `v` on time, the new value of the
walk at a late firing; `suppressed` is the answer to its pulse request (R62, R64, R79, R90). -/
def firingOccurrence (e : Entry) (due ref v : Time) (late suppressed holdover : Bool) : Report :=
  let passed :=
    match e.schedule with
    | .periodicWall per _ => (ref.toNat - due.toNat) / per.toNat
    | .periodicElapsed per => (ref.toNat - due.toNat) / per.toNat
    | _ => 0
  ⟨.fired, 1, if late then 1 else 0, BitVec.ofNat 16 (min (e.missed.toNat + passed) 65535), v, v,
    ⟨holdover, suppressed, decide (65535 ≤ e.missed.toNat + passed)⟩⟩

/-- The owner's queue and the pending summary of an entry after they took an occurrence of it (the table of R92). -/
def occurrenceTaken (h : Handle) (tag : Half) (r : Report) (q : NoticeQueue) (summary : Option Report) :
    NoticeQueue × Option Report :=
  if ∃ n ∈ q.notices, n.handle = h ∧ n.delivered = false ∧ n.report.reason = .fired then
    (⟨q.notices.map fun n =>
        if n.handle = h ∧ n.delivered = false ∧ n.report.reason = .fired then { n with report := combine n.report r } else n,
      q.nextSeq⟩, summary)
  else if q.notices.length < 16 then (⟨q.notices ++ [⟨q.nextSeq, h, tag, r, false⟩], q.nextSeq + 1⟩, summary)
  else
    (q, some
      (match summary with
      | none => r
      | some x => combine x r))

/-- The owner's queue and the terminal pending of an entry after they took its terminal report (R93). -/
def terminalTaken (h : Handle) (tag : Half) (r : Report) (q : NoticeQueue) (terminal : Option Report) :
    NoticeQueue × Option Report :=
  if q.notices.length < 16 then (⟨q.notices ++ [⟨q.nextSeq, h, tag, r, false⟩], q.nextSeq + 1⟩, terminal)
  else (q, some r)

/-- The status of an entry after a firing that advances against `v`, where that does not exhaust it (R63 to R65, R79). -/
def firedStatus (e : Entry) (due v : Time) : Option EntryStatus :=
  match e.schedule with
  | .oneShotWall => some (.ended .fired)
  | .oneShotElapsed => some (.ended .fired)
  | .periodicWall per _ =>
    let d := due.toNat + ((v.toNat - due.toNat) / per.toNat + 1) * per.toNat
    if d ≤ lastTime.toNat then some (.armed (timeOf d)) else none
  | .periodicElapsed per =>
    let d := due.toNat + ((v.toNat - due.toNat) / per.toNat + 1) * per.toNat
    if d ≤ lastTime.toNat then some (.armed (timeOf d)) else none
  | .calendar pat => (nextMatch pat v).map .armed

/-- The entries due at or before `v` fire at `v` on time, the head of the agenda each time, until none is due (R60). -/
inductive FiredThrough (v : Time) : State → State → Prop
  | finished (s : State) : dueHead v s = none → FiredThrough v s s
  | fires (s t : State) (h : Handle) :
      dueHead v s = some h → FiredThrough v (fireEntry h v v false s) t → FiredThrough v s t

/-- The held commands of these ports are taken in this order: an empty place is passed over, a command is taken by its own
rule while RUNNING, and once a step has begun a walk the places after it keep theirs (R82, R83). -/
inductive HeldTaken : List Port → State → State → Prop
  | finished (s : State) : HeldTaken [] s s
  | passedOver (p : Port) (rest : List Port) (s t : State) :
      isRunning s = true → s.agu.held.get p = none → HeldTaken rest s t → HeldTaken (p :: rest) s t
  | taken (p : Port) (rest : List Port) (c : AgendaCommand) (s t : State) :
      isRunning s = true → s.agu.held.get p = some c →
        HeldTaken rest (runAgendaCommand p c (markHeld p false (setHeld p none s))) t → HeldTaken (p :: rest) s t
  | walks (ports : List Port) (s : State) : isRunning s = false → HeldTaken ports s s

/-- The pending parts of a port's entries in the order of a drain: by handle, the summary before the terminal report, each
with its handle and tag (R96). -/
def pendingParts (p : Port) (s : State) : List (Handle × Half × Report) :=
  allHandles.flatMap fun h =>
    match slot s h with
    | some e => if e.owner = p then (e.summary.toList ++ e.terminal.toList).map fun r => (h, e.tag, r) else []
    | none => []

/-- The parts that a port reset puts back into its queue, in the order of the drain: of each entry with persist YES its FIRED
notices in queue order and then its summary, combined; then its SKIPPED or EXHAUSTED notice, or its terminal pending (R96,
R107). -/
def mergedBack (p : Port) (s : State) : List (Handle × Half × Report) :=
  allHandles.flatMap fun h =>
    match slot s h with
    | some e =>
      if e.owner = p ∧ e.persist = true then
        let own := ((s.queues.get p).notices.filter fun n => n.handle == h).map (·.report)
        let fired := own.filter (fun r => r.reason == .fired) ++ e.summary.toList
        let ended := own.filter (fun r => r.reason != .fired) ++ e.terminal.toList
        ((match fired with
          | [] => []
          | r :: rest => [rest.foldl combine r]) ++ ended.take 1).map fun r => (h, e.tag, r)
      else []
    | none => []

/-- The notices that these parts become at the back of a queue: UNDELIVERED, with the next sequence numbers (R89, R96). -/
def asNotices (nextSeq : Half) (parts : List (Handle × Half × Report)) : List Notice :=
  parts.mapIdx fun i x => ⟨nextSeq + BitVec.ofNat 16 i, x.1, x.2.1, x.2.2, false⟩

/-- The firings of an entry that are represented in its owner's queue and in its pending summary (R95). -/
def firesTotal (p : Port) (h : Handle) (s : State) : Nat :=
  (((s.queues.get p).notices.filter fun n => n.handle == h).map fun n => n.report.fires.toNat).sum +
    match (slot s h).bind (·.summary) with
    | some r => r.fires.toNat
    | none => 0

/-! ### A part in order

Each clause is kept by every step of a part that satisfies all of them. -/

/-- Each port is OFFLINE outside MAIN alone, and NOT_READY in MAIN alone until the profile load is READY (R167 to R169,
R189). -/
def PortsFollowSupply (s : State) : Prop :=
  ∀ p, ((s.ports.get p).state = .offline ↔ s.spm.supply ≠ .main) ∧
    ((s.ports.get p).state = .notReady ↔ s.spm.supply = .main ∧ s.pru.load ≠ .ready)

/-- What is received of a transaction is in order: of a COLLECT the marker alone is stored, and otherwise the first 53 of
the bytes counted (R165, R170, R175; log 6). -/
def ReceivedInOrder (r : Received) : Prop :=
  r.stored.length ≤ 53 ∧
    (r.stored.head? = some 0x3C → r.stored = [0x3C] ∧ 1 ≤ r.count) ∧
    (r.stored.head? ≠ some 0x3C → r.stored.length = min r.count 53)

/-- The receiver of a port that is not OFFLINE is WAITING while select is released alone; a port that receives is not
OFFLINE, what it has received is in order, and it has shifted out its snapshot for it (R165, R166, R169, R170, R175; logs 6,
7). -/
def ReceiversFollowSelect (s : State) : Prop :=
  ∀ p, ((s.ports.get p).state ≠ .offline → ((s.ports.get p).receiver = .waiting ↔ (s.ports.get p).select = false)) ∧
    ∀ limit snap received, (s.ports.get p).receiver = .receiving limit snap received →
      (s.ports.get p).state ≠ .offline ∧ ReceivedInOrder received ∧ (s.ports.get p).dout = receivedOut snap received

/-- The load state, the two-wire controller, the supply state and the reset input stand together as the table of R159
gives (R159, R164, R194, R196). -/
def LoadFollowsSupply (s : State) : Prop :=
  (s.pru.twoWire = .idle ↔ s.pru.load ≠ .loading) ∧
    (s.pru.load = .loading → s.spm.supply = .main) ∧
    (s.pru.load = .waitingSupply → s.spm.supply ≠ .main) ∧
    (s.spm.supply = .main → (s.spm.resetAsserted = true ↔ s.pru.twoWire = .held))

/-- Until the load is READY every slot is FREE, every queue is empty, every strobe line is IDLE and nobody holds the lease
(R146, R163). -/
def NothingBeforeLoad (s : State) : Prop :=
  s.pru.load ≠ .ready →
    (∀ h, slot s h = none) ∧ (∀ p, (s.queues.get p).notices = []) ∧ (∀ l, s.strobes.get l = .idle) ∧ s.lease = none

/-- Every profile record holds values in range, and at least one carries ADMIN (R147, R149). -/
def ProfilesInOrder (s : State) : Prop :=
  (∀ p, profileInRange (s.pru.profiles.get p) = true) ∧ ∃ p, (s.pru.profiles.get p).admin = true

/-- The holder's profile carries MAY_STEER, the lease runs for at most an hour more, and a lease exists in MAIN alone
(R112, R113, R122, R126). -/
def LeaseInOrder (s : State) : Prop :=
  ∀ l, s.lease = some l →
    (s.pru.profiles.get l.holder).maySteer = true ∧ (remaining l.endAt s.tbu.mono).toNat ≤ leaseTicks 3600 ∧
      s.spm.supply = .main

/-- No port owns more slots than its quota (R40). -/
def QuotaKept (s : State) : Prop := ∀ p, ownedCount s p ≤ (s.pru.profiles.get p).quota.toNat

/-- The agenda holds exactly the ARMED entries, each once, ordered by due and then by handle (R59). -/
def AgendaInOrder (s : State) : Prop :=
  s.agu.agenda.Nodup ∧
    (∀ h, h ∈ s.agu.agenda ↔ ∃ e due, slot s h = some e ∧ e.status = .armed due) ∧
    s.agu.agenda.Pairwise fun g h =>
      ∀ d d', (slot s g).bind dueOf = some d → (slot s h).bind dueOf = some d' → agendaBefore d g d' h = true

/-- While RUNNING every armed due lies strictly after the timeline value: no due entry is left behind (R60). -/
def NoDueLeftBehind (s : State) : Prop :=
  isRunning s = true → ∀ h e due, slot s h = some e → e.status = .armed due → s.tbu.timeline < due

/-- Every entry record keeps to its presence column: a period of at least 16 ticks, no missed accumulator for a ONE_SHOT
entry, a FIRED pending summary, a SKIPPED or EXHAUSTED terminal pending without fires and that while ENDED alone; and an
entry with notify NO has no reference (R28, R49, R90, R94). -/
def EntriesInOrder (s : State) : Prop :=
  ∀ h e, slot s h = some e →
    (∀ per anchor, e.schedule = .periodicWall per anchor → 16 ≤ per.toNat) ∧
      (∀ per, e.schedule = .periodicElapsed per → 16 ≤ per.toNat) ∧
      (e.schedule.kind = .oneShot → e.missed = 0) ∧
      (∀ r, e.summary = some r → r.reason = .fired) ∧
      (∀ r, e.terminal = some r → r.reason ≠ .fired ∧ r.fires = 0 ∧ isEnded e = true) ∧
      (e.notify = false → hasReference s h e = false)

/-- The delivered notices of a queue stand before its undelivered ones (R88). -/
def deliveredFirst (l : List Notice) : Prop := l.Pairwise fun n m => m.delivered = true → n.delivered = true

/-- A queue holds at most 16 notices, the delivered ones first, at most one UNDELIVERED FIRED notice for a handle, with
consecutive sequence numbers that end before the next one (R88, R89). -/
def QueueInOrder (q : NoticeQueue) : Prop :=
  q.notices.length ≤ queueDepth ∧ deliveredFirst q.notices ∧
    (∀ h, (q.notices.countP (isOpenFor h)) ≤ 1) ∧
    ∀ i (hi : i < q.notices.length), q.notices[i].seq + BitVec.ofNat 16 (q.notices.length - i) = q.nextSeq

/-- Every queue is in order, and holds notices of slots that its own port owns; a SKIPPED or EXHAUSTED notice is one of an
ENDED entry and counts no fires (R48, R88 to R90, R93). -/
def QueuesInOrder (s : State) : Prop :=
  ∀ p, QueueInOrder (s.queues.get p) ∧
    ∀ n ∈ (s.queues.get p).notices, ∃ e, slot s n.handle = some e ∧ e.owner = p ∧
      (n.report.reason ≠ .fired → isEnded e = true ∧ n.report.fires = 0)

/-- While a queue has room no entry of its port has a pending part, and an entry with a pending summary has no UNDELIVERED
FIRED notice (R92, R96). -/
def PendingWaitsForRoom (s : State) : Prop :=
  ∀ h e, slot s h = some e →
    (hasRoom s e.owner = true → e.summary = none ∧ e.terminal = none) ∧
      (e.summary ≠ none → (s.queues.get e.owner).notices.any (isOpenFor h) = false)

/-- An ENDED entry keeps its slot by a reference (R48). -/
def EndedHasReference (s : State) : Prop :=
  ∀ h e, slot s h = some e → isEnded e = true → hasReference s h e = true

/-- A port is WORKING on a command that is not held only while a walk wants its response, which is then the port's
STEP_TIME (R80, R178). -/
def WorkingOnStep (s : State) : Prop :=
  ∀ p, (∃ c, (s.ports.get p).state = .working c ∧ c.held = false) ↔
    ∃ w, walkOf s = some w ∧ w.port = p ∧ w.wanted = true

/-- A place of the held-command list is filled while its port is WORKING on a held command alone, and while REALIGNING
alone (R81, R82, R167). -/
def HeldFollowsPorts (s : State) : Prop :=
  ∀ p, ((s.agu.held.get p ≠ none) ↔ ∃ c, (s.ports.get p).state = .working c ∧ c.held = true) ∧
    (s.agu.held.get p ≠ none → walkOf s ≠ none)

/-- The walk record: the delta is the new value minus the old one, the position is at most 96, and at most one entry has
been skipped at each visit (R69, R75). -/
def WalkInOrder (s : State) : Prop :=
  ∀ w, walkOf s = some w →
    w.delta = (w.newValue.toNat : Int) - (w.oldValue.toNat : Int) ∧ w.position ≤ 96 ∧ w.skipped ≤ w.position

/-- Every attention line stands as its mode, its condition and the supply state give: released outside MAIN; following the
condition in LEVEL; driven in PULSE while a pulse runs alone, which it does while the condition is true alone (R135 to
R138). -/
def LinesFollow (s : State) : Prop :=
  ∀ p, ((s.attn.get p).line = .driven ↔
      s.spm.supply = .main ∧
        (match (s.attn.get p).mode with
          | .level => attnCondition s p = true
          | .pulse => (s.attn.get p).pulseEnd ≠ none)) ∧
    ∀ e, (s.attn.get p).pulseEnd = some e →
      s.spm.supply = .main ∧ (s.attn.get p).mode = .pulse ∧ attnCondition s p = true ∧
        (remaining e s.tbu.mono).toNat ≤ 64

/-- The frame-error cause is NONE while FRAME is clear alone (R129). -/
def CauseFollowsFrame (s : State) : Prop := ∀ p, (s.attn.get p).cause = .none ↔ frameFlag s p = false

/-- A strobe line pulses only in MAIN, while the map names an owner, for at most 255 ticks more (R141, R142). -/
def StrobesInOrder (s : State) : Prop :=
  ∀ l e, s.strobes.get l = .pulsing e →
    s.spm.supply = .main ∧ (s.pru.strobeMap.get l).owner ≠ none ∧ (remaining e s.tbu.mono).toNat ≤ 255

/-- Trim and slew remaining lie in their ranges (R10, R13). -/
def SteeringInRange (s : State) : Prop :=
  -maxTrim ≤ s.tbu.trim ∧ s.tbu.trim ≤ maxTrim ∧ -maxSlew ≤ s.tbu.slew ∧ s.tbu.slew ≤ maxSlew

/-- A part in order. -/
structure InOrder (s : State) : Prop where
  ports : PortsFollowSupply s
  receivers : ReceiversFollowSelect s
  load : LoadFollowsSupply s
  nothing : NothingBeforeLoad s
  profiles : ProfilesInOrder s
  lease : LeaseInOrder s
  quota : QuotaKept s
  agenda : AgendaInOrder s
  dues : NoDueLeftBehind s
  entries : EntriesInOrder s
  queues : QueuesInOrder s
  pendingParts : PendingWaitsForRoom s
  references : EndedHasReference s
  working : WorkingOnStep s
  held : HeldFollowsPorts s
  walk : WalkInOrder s
  lines : LinesFollow s
  causes : CauseFollowsFrame s
  strobes : StrobesInOrder s
  steering : SteeringInRange s

end Sys2Proof.Machine
end

