-- ==== Sys2Proof/Certificates/Slice0/Obligations.lean ====
section
/-! DEFINITION. The statements about the CT40 for the provers. -/

open Sys2Proof Sys2Proof.Machine

/-! ### The queue and the time limits -/

/-- A step takes the command at the front of the queue and runs it with the queue's rest. That the part idles on an empty
queue is the model's choice (log 3). -/
def Obligations.StepRunsTheFrontCommand : Prop :=
  (∀ (c : Instr) (rest : List Instr) (s : State),
      s.pending = c :: rest → step s = exec c { s with pending := rest }) ∧
    ∀ s : State, s.pending = [] → step s = .next s

/-- Every row but SETTLE_ABORT, POWER_ON and the expiries themselves first takes every time limit that is due, as the rows
LEASE_EXPIRY, FRAME_TIMEOUT, ATTENTION_PULSE_END, STROBE_PULSE_END and RESUME take them, in this order and by port and line,
after which no limit is due (R3). That these rows take the limits first, the order, and the two rows that do not are the
model's choice (logs 1, 12). -/
def Obligations.DueLimitsAreTakenFirst : Prop :=
  (∀ s : State, runRows expiryRows s = .next (takeDueLimits s) ∧ limitDue (takeDueLimits s) = false) ∧
    ∀ (c : Instr) (s : State), takesNoDueLimit c = false → exec c s = exec c (takeDueLimits s)

/-! ### Frames and records -/

/-- A frame is judged a REQUEST for a command exactly when it is the frame of that command, byte for byte, with no
incomplete byte after it (R170, R171). -/
def Obligations.RequestFrameIsReadBack : Prop :=
  ∀ (bytes : List Byte) (bits : Fin 8) (code seq : Byte) (payload : List Byte),
    judgeFrame bytes bits = .request code seq payload ↔
      bits = 0 ∧ payload.length ≤ maxPayload ∧ bytes = requestFrame code seq payload

/-- A REQUEST frame with one byte after the marker changed is a frame error, LENGTH or CRC (R171, R199). -/
def Obligations.OneDamagedByteIsCaught : Prop :=
  ∀ (code seq : Byte) (payload : List Byte) (i : Nat) (x : Byte),
    payload.length ≤ maxPayload → 1 ≤ i → (hi : i < (requestFrame code seq payload).length) →
      x ≠ (requestFrame code seq payload)[i] →
      judgeFrame ((requestFrame code seq payload).set i x) 0 = .error .length ∨
        judgeFrame ((requestFrame code seq payload).set i x) 0 = .error .crc

/-- Bytes pass the five checks and give tables exactly when they are, byte for byte, the image of these tables, the
profiles lie in range and one of them carries ADMIN; an image with any one byte changed does not pass (R162, 10.7). -/
def Obligations.ProfileImageIsReadBack : Prop :=
  ∀ (t : PerPort Profile) (m : PerLine StrobeRecord),
    (∀ bytes : List Byte,
      judgeImage bytes = some (t, m) ↔
        bytes = profileImage t m ∧ (∀ p, profileInRange (t.get p) = true) ∧ ∃ p, (t.get p).admin = true) ∧
    ∀ (i : Nat) (hi : i < (profileImage t m).length) (x : Byte),
      x ≠ (profileImage t m)[i] → judgeImage ((profileImage t m).set i x) = none

/-- A CREATE_ENTRY payload is 25 bytes long and gives back the tag, every code and every timing field that it was formed
from (R30, 10.5, 10.6). -/
def Obligations.CreatePayloadIsReadBack : Prop :=
  ∀ (tag : Half) (policy : StepPolicy) (notify persist : Bool) (strobe : Option StrobeAction) (t : Timing),
    timingInRange t = true → strobeInRange strobe = true →
      (createPayload tag policy notify persist strobe t).length = 25 ∧
        numField (createPayload tag policy notify persist strobe t) 0 2 = tag.toNat ∧
        createCodes (createPayload tag policy notify persist strobe t) =
          some ⟨t.kind, t.reference, policy, notify, persist, strobe⟩ ∧
        timingFields t.kind t.reference (createPayload tag policy notify persist strobe t) = some t

/-! ### The timeline -/

/-- An oscillator tick adds 1 to the monotonic count and advances the timeline by the sum of the table of R5, from 0 to 3;
it sets TIME_ADJUSTED on every port if it completes a slew and VALIDITY if validity changes; and where it sets no flag and
no entry is due it changes the TBU alone. In a part in order a tick while RUNNING then fires the entries that are due, in
agenda order, and one while REALIGNING fires none (R1, R2, R5, R6, R9, R11, R12, R15, R27, R60, R76). That the tick is a
crystal transition, which leaves the divider at 0 and the monitor RUNNING, what it does to validity at the last value, and
that its advance is formed there with the trim and slew effects of R5, are the model's reading (logs 9, 10, 28). -/
def Obligations.OscillatorTickMovesTheCounts : Prop :=
  ∀ s : State, limitDue s = false →
    ∃ (t : State) (adv : Nat), exec .oscillatorTick s = .next t ∧ adv ≤ 3 ∧
      (adv : Int) = 1 + trimRow s.tbu (s.tbu.mono + 1) + slewRow s.tbu (s.tbu.mono + 1) ∧
      t.tbu = ticked s.tbu adv ∧
      t.lease = s.lease ∧ t.pru = s.pru ∧ t.ports = s.ports ∧ t.spm = s.spm ∧ t.draws = s.draws ∧
      t.pending = s.pending ∧ t.agu.state = s.agu.state ∧ t.agu.held = s.agu.held ∧
      (∀ r, (t.attn.get r).flags =
            (s.attn.get r).flags ||| (if completesSlew s.tbu t.tbu = true then flagBit .timeAdjusted else 0) |||
              (if t.tbu.validity ≠ s.tbu.validity then flagBit .validity else 0) ∧
          (t.attn.get r).cause = (s.attn.get r).cause ∧ (t.attn.get r).enables = (s.attn.get r).enables ∧
          (t.attn.get r).mode = (s.attn.get r).mode) ∧
      (completesSlew s.tbu t.tbu = false → t.tbu.validity = s.tbu.validity →
        (isRunning s = false ∨ t.tbu.timeline = s.tbu.timeline ∨ dueHead t.tbu.timeline s = none) →
        t = { s with tbu := t.tbu }) ∧
      (InOrder s →
        (isRunning s = true → FiredThrough t.tbu.timeline (tickFlagged t.tbu s) t) ∧
          (isRunning s = false → t = tickFlagged t.tbu s))

/-- With a constant trim t each run of 1 048 576 oscillator ticks that ends at a multiple of 1 048 576 holds exactly |t|
trim adjustment ticks, and the last of them ends the run (R9). -/
def Obligations.TrimRunHoldsTrimTicks : Prop :=
  ∀ (trim : Int) (start : Mono), trim.natAbs ≤ 63 → start.toNat % trimRun = 0 →
    (List.range trimRun).countP (fun i => isTrimTick trim (start + 1 + BitVec.ofNat 48 i)) = trim.natAbs ∧
      (trim ≠ 0 → isTrimTick trim (start + BitVec.ofNat 48 trimRun) = true)

/-- The monotonic count changes by oscillator ticks, wrapping at 2^48, and by power-on, and by no other command. The timeline
value goes down only at power-on, and when a step with an earlier target is taken, whose walk record then holds both values
(R2, R5, R19, R69). -/
def Obligations.CountsMoveOnlyByTheirEvents : Prop :=
  ∀ (c : Instr) (s t : State), exec c s = .next t →
    (t.tbu.mono =
      match c with
      | .oscillatorTick => s.tbu.mono + 1
      | .crystalTransition true => if s.tbu.divider = 7 then s.tbu.mono + 1 else s.tbu.mono
      | .powerOn _ => 0
      | _ => s.tbu.mono) ∧
    (t.tbu.timeline < s.tbu.timeline →
      (∃ l, c = .powerOn l) ∨
        ∃ w, walkOf t = some w ∧ w.oldValue = s.tbu.timeline ∧ w.newValue = t.tbu.timeline ∧ w.delta < 0)

/-- READ_TIME completes OK at any port in any validity state, held by no walk, with one snapshot of the timeline value, the
monotonic count, validity, slew remaining, trim, holder, remaining lease and agenda state, and changes nothing else
(R22, 10.4). -/
def Obligations.ReadTimeReportsTheTime : Prop :=
  ∀ (p : Port) (snap : Snapshot) (s : State) (seq : Byte),
    Ready p snap s → SteeringInRange s → LeaseInOrder s →
      ∃ out : List Byte, exec (.readTime p seq []) s = .next (answered p snap 0x10 seq [] .ok out s) ∧
        out.length = 24 ∧ numField out 0 4 = secondsOf s.tbu.timeline ∧ numField out 4 2 = ticksOf s.tbu.timeline ∧
        numField out 6 6 = s.tbu.mono.toNat ∧ byteAt out 12 = validityCode s.tbu.validity ∧
        ofSignedBytes (field out 13 4) = s.tbu.slew ∧ ofSignedBytes (field out 17 1) = s.tbu.trim ∧
        byteAt out 18 = holderCode (s.lease.map (·.holder)) ∧ numField out 19 4 = remainingLease s ∧
        byteAt out 23 = (if isRunning s then 0x00 else 0x01)

/-- READ_CALENDAR completes OK at any port in any validity state, held by no walk, with the calendar view of the timeline
value, its ticks and the validity, and changes nothing else (R23, 10.4). -/
def Obligations.ReadCalendarReportsTheDate : Prop :=
  ∀ (p : Port) (snap : Snapshot) (s : State) (seq : Byte), Ready p snap s →
    ∃ out : List Byte, exec (.readCalendar p seq []) s = .next (answered p snap 0x11 seq [] .ok out s) ∧
      out.length = 11 ∧ numField out 0 2 = (calendarView s.tbu.timeline).date.year ∧
      (byteAt out 2).toNat = (calendarView s.tbu.timeline).date.month ∧
      (byteAt out 3).toNat = (calendarView s.tbu.timeline).date.day ∧
      (byteAt out 4).toNat = (calendarView s.tbu.timeline).weekday ∧
      (byteAt out 5).toNat = (calendarView s.tbu.timeline).hour ∧
      (byteAt out 6).toNat = (calendarView s.tbu.timeline).minute ∧
      (byteAt out 7).toNat = (calendarView s.tbu.timeline).second ∧
      numField out 8 2 = ticksOf s.tbu.timeline ∧ byteAt out 10 = validityCode s.tbu.validity

/-- The calendar view of a timeline value: the time of day from the second of the day, the weekday from the day number, and
the one date whose year, month and day account for every day since 2001-01-01 (R7, R8). -/
def Obligations.CalendarViewIsTheDate : Prop :=
  (∀ t : Time,
      (calendarView t).hour = secondsOf t % 86400 / 3600 ∧
      (calendarView t).minute = secondsOf t % 86400 % 3600 / 60 ∧
      (calendarView t).second = secondsOf t % 86400 % 3600 % 60 ∧
      (calendarView t).weekday = secondsOf t / 86400 % 7 + 1 ∧
      2001 ≤ (calendarView t).date.year ∧ (calendarView t).date.year ≤ 2137 ∧
      1 ≤ (calendarView t).date.month ∧ (calendarView t).date.month ≤ 12 ∧
      1 ≤ (calendarView t).date.day ∧
      (calendarView t).date.day ≤ monthDays (calendarView t).date.year (calendarView t).date.month ∧
      daysBeforeYear (calendarView t).date.year +
          daysBeforeMonth (calendarView t).date.year (calendarView t).date.month + ((calendarView t).date.day - 1) =
        secondsOf t / 86400 ∧
      ((calendarView t).date.year = 2137 →
        (calendarView t).date.month = 1 ∨ (calendarView t).date.month = 2 ∧ (calendarView t).date.day ≤ 7)) ∧
    (∀ t u : Time, secondsOf t = secondsOf u → calendarView t = calendarView u) ∧
    (∀ y, 2001 ≤ y → y ≤ 2137 →
      (yearDays y = if y % 4 = 0 ∧ y ≠ 2100 then 366 else 365) ∧
      (List.range' 1 12).map (monthDays y) = [31, yearDays y - 337, 31, 30, 31, 30, 31, 31, 30, 31, 30, 31]) ∧
    calendarView lastTime = ⟨⟨2137, 2, 7⟩, 4, 6, 28, 15⟩ ∧ ticksOf lastTime = 4095

/-- The next match of a pattern after a timeline value is the least matching value strictly after it, and it does not exist
exactly when no value in the range after it matches (R35, R37). -/
def Obligations.NextMatchIsLeast : Prop :=
  ∀ (pat : Pattern) (v : Time),
    (∀ m : Time, nextMatch pat v = some m ↔
      v < m ∧ patternMatches pat m = true ∧ ∀ x : Time, v < x → patternMatches pat x = true → m ≤ x) ∧
    (nextMatch pat v = none ↔ ∀ x : Time, v < x → patternMatches pat x = false)

/-- SLEW_TIME and SET_TRIM from the holder replace the slew remaining and the trim by a value in range, answer the value
replaced, and refuse any other value with BAD_VALUE; they change nothing else and are held by no walk (R10, R13). -/
def Obligations.SlewAndTrimAreReplaced : Prop :=
  ∀ (p : Port) (snap : Snapshot) (s : State) (seq : Byte) (x : Int), Ready p snap s → isHolder s p = true →
    (-2147483648 ≤ x → x ≤ 2147483647 →
      exec (.slewTime p seq (signedBytes 4 x)) s =
        .next (if -1048576 ≤ x ∧ x ≤ 1048576 then
          answered p snap 0x15 seq (signedBytes 4 x) .ok (signedBytes 4 s.tbu.slew)
            { s with tbu := { s.tbu with slew := x } }
        else answered p snap 0x15 seq (signedBytes 4 x) .badValue [] s)) ∧
    (-128 ≤ x → x ≤ 127 →
      exec (.setTrim p seq (signedBytes 1 x)) s =
        .next (if -63 ≤ x ∧ x ≤ 63 then
          answered p snap 0x16 seq (signedBytes 1 x) .ok (signedBytes 1 s.tbu.trim)
            { s with tbu := { s.tbu with trim := x } }
        else answered p snap 0x16 seq (signedBytes 1 x) .badValue [] s))

/-- A steering command from a port that is not the holder is refused with NOT_HOLDER, whatever the agenda state, and an
administrative command from a port without ADMIN with NOT_PERMITTED; the payload is not examined and nothing else changes
(R123, R151). -/
def Obligations.CommandsNeedTheirRight : Prop :=
  ∀ (p : Port) (snap : Snapshot) (s : State) (seq : Byte) (payload : List Byte), Ready p snap s →
    (isHolder s p = false →
      (payload.length = 8 →
        exec (.stepTime p seq payload) s = .next (answered p snap 0x14 seq payload .notHolder [] s)) ∧
      (payload.length = 4 →
        exec (.slewTime p seq payload) s = .next (answered p snap 0x15 seq payload .notHolder [] s)) ∧
      (payload.length = 1 →
        exec (.setTrim p seq payload) s = .next (answered p snap 0x16 seq payload .notHolder [] s))) ∧
    ((s.pru.profiles.get p).admin = false →
      (payload.length = 7 →
        exec (.setProfile p seq payload) s = .next (answered p snap 0x51 seq payload .notPermitted [] s)) ∧
      (payload.length = 4 →
        exec (.setStrobeMap p seq payload) s = .next (answered p snap 0x52 seq payload .notPermitted [] s)) ∧
      (payload.length = 1 →
        exec (.resetPort p seq payload) s = .next (answered p snap 0x53 seq payload .notPermitted [] s)))

/-- A STEP_TIME from the holder while RUNNING: refused with BAD_VALUE it changes nothing; taken, the timeline becomes the
target, the slew is dropped, validity becomes VALID, TIME_ADJUSTED is handed over to every other port and then VALIDITY to
every port if validity changed, each with the answer of its attention line, the AGU enters REALIGNING with the walk record,
and the port stays WORKING. The target is the value given in mode
ABSOLUTE, the present value plus or minus the magnitude in mode RELATIVE, and none where a field is refused or the target
lies outside the range (R17 to R19, R69). -/
def Obligations.StepIsTaken : Prop :=
  (∀ (p : Port) (snap : Snapshot) (s : State) (seq : Byte) (payload : List Byte),
      Ready p snap s → isHolder s p = true → isRunning s = true → payload.length = 8 →
        (stepTarget s.tbu.timeline payload = none →
          exec (.stepTime p seq payload) s = .next (answered p snap 0x14 seq payload .badValue [] s)) ∧
        ∀ target, stepTarget s.tbu.timeline payload = some target →
          ∃ t : State, exec (.stepTime p seq payload) s = .next t ∧
            t.tbu = { s.tbu with timeline := target, slew := 0, validity := .valid } ∧
            t.agu = { s.agu with
              state := .realigning
                { port := p, oldValue := s.tbu.timeline, newValue := target, droppedSlew := s.tbu.slew
                  delta := (target.toNat : Int) - (s.tbu.timeline.toNat : Int)
                  position := 0, skipped := 0, firedLate := 0, wanted := true } } ∧
            t.ports = (outstanding p snap 0x14 seq payload false s).ports ∧
            (∀ r, (t.attn.get r).flags =
                  (s.attn.get r).flags ||| (if r = p then 0 else flagBit .timeAdjusted) |||
                    (if s.tbu.validity = .valid then 0 else flagBit .validity) ∧
                (t.attn.get r).cause = (s.attn.get r).cause ∧ (t.attn.get r).enables = (s.attn.get r).enables ∧
                (t.attn.get r).mode = (s.attn.get r).mode ∧
                t.attn.get r = (stepFlagged p r s).attn.get r) ∧
            t.lease = s.lease ∧ t.queues = s.queues ∧ t.strobes = s.strobes ∧ t.pru = s.pru ∧ t.spm = s.spm ∧
            t.draws = s.draws ∧ t.pending = s.pending) ∧
    ∀ (now target : Time) (mode direction : Byte) (seconds ticks : Nat), seconds < 4294967296 → ticks < 65536 →
      (stepTarget now (stepTimePayload mode direction seconds ticks) = some target ↔
        ticks ≤ 4095 ∧
          ((mode = 0x00 ∧ target.toNat = seconds * 4096 + ticks) ∨
            (mode = 0x01 ∧ seconds ≤ 2147483647 ∧
              ((direction = 0x00 ∧ target.toNat = now.toNat + (seconds * 4096 + ticks)) ∨
                (direction = 0x01 ∧ target.toNat + (seconds * 4096 + ticks) = now.toNat)))))

/-- The crystal-stop event makes a RUNNING monitor STOPPED and validity SUSPECT, with VALIDITY on every port if validity
changes; a crystal transition makes the monitor RUNNING and moves the divider at the end of a period, and the period that
returns the divider to 0 is an oscillator tick (R1, R14, R15). That an event whose condition does not hold leaves the state
is the model's choice (log 2), and so is the operand of the transition (log 9). -/
def Obligations.CrystalMonitorJudges : Prop :=
  ∀ s : State, limitDue s = false →
    (s.tbu.monitor = .running →
      exec .crystalStop s =
        .next (if s.tbu.validity = .suspect then { s with tbu := { s.tbu with monitor := .stopped } }
          else handFlagToAll .validity { s with tbu := { s.tbu with monitor := .stopped, validity := .suspect } })) ∧
    (s.tbu.monitor ≠ .running → exec .crystalStop s = .next s) ∧
    exec (.crystalTransition false) s = .next { s with tbu := { s.tbu with monitor := .running } } ∧
    (s.tbu.divider ≠ 7 →
      exec (.crystalTransition true) s =
        .next { s with tbu := { s.tbu with monitor := .running, divider := s.tbu.divider + 1 } }) ∧
    (s.tbu.divider = 7 → exec (.crystalTransition true) s = exec .oscillatorTick s)

/-! ### Authority -/

/-- CLAIM_AUTHORITY: refused without MAY_STEER, then for a duration out of range, then while another port holds the lease;
else granted or renewed for the duration from now. RELEASE_AUTHORITY: the holder gives the lease up, any other port is
refused. Both are held by no walk, set no flag and change nothing else (R113 to R115, R117). -/
def Obligations.LeaseIsClaimedAndReleased : Prop :=
  ∀ (p : Port) (snap : Snapshot) (s : State) (seq : Byte), Ready p snap s →
    (∀ d : Nat, d < 65536 →
      exec (.claimAuthority p seq (toBytes 2 d)) s =
        .next (if (s.pru.profiles.get p).maySteer = false then
            answered p snap 0x12 seq (toBytes 2 d) .notPermitted [] s
          else if d = 0 ∨ (s.pru.profiles.get p).maxLease.toNat < d then
            answered p snap 0x12 seq (toBytes 2 d) .badValue [] s
          else
            match s.lease with
            | none =>
              answered p snap 0x12 seq (toBytes 2 d) .ok ([0x01] ++ toBytes 4 (d * 4096))
                { s with lease := some ⟨p, s.tbu.mono + BitVec.ofNat 48 (d * 4096)⟩ }
            | some l =>
              if l.holder = p then
                answered p snap 0x12 seq (toBytes 2 d) .ok ([0x02] ++ toBytes 4 (d * 4096))
                  { s with lease := some ⟨p, s.tbu.mono + BitVec.ofNat 48 (d * 4096)⟩ }
              else
                answered p snap 0x12 seq (toBytes 2 d) .heldByOther
                  ([portCode l.holder] ++ toBytes 2 (((l.endAt - s.tbu.mono).toNat + 4095) / 4096)) s)) ∧
    (∀ l, s.lease = some l → l.holder = p →
      exec (.releaseAuthority p seq []) s =
        .next (answered p snap 0x13 seq [] .ok (toBytes 4 (l.endAt - s.tbu.mono).toNat) { s with lease := none })) ∧
    (isHolder s p = false →
      exec (.releaseAuthority p seq []) s = .next (answered p snap 0x13 seq [] .notHolder [] s))

/-- The expiry of a lease end, of an attention pulse end, of a strobe pulse end and of a frame limit: at the tick that
brings the monotonic count to the end, and at no other time, the holder becomes none with LEASE_LOST on it, the attention
line is released, the strobe line becomes IDLE, the receiver becomes DISCARDING with FRAME set and cause TIMEOUT (R3, R118,
R136, R143, R173). That the row taken at another time leaves the state is the model's choice (log 2). -/
def Obligations.TimeLimitsExpire : Prop :=
  ∀ s : State,
    (∀ l, s.lease = some l → l.endAt = s.tbu.mono →
      exec .leaseExpiry s = .next (handFlag .leaseLost l.holder { s with lease := none })) ∧
    ((∀ l, s.lease = some l → l.endAt ≠ s.tbu.mono) → exec .leaseExpiry s = .next s) ∧
    (∀ p, (s.attn.get p).pulseEnd = some s.tbu.mono →
      exec (.attentionPulseEnd p) s =
        .next { s with attn := s.attn.set p { s.attn.get p with line := .released, pulseEnd := none } }) ∧
    (∀ p, (s.attn.get p).pulseEnd ≠ some s.tbu.mono → exec (.attentionPulseEnd p) s = .next s) ∧
    (∀ l, s.strobes.get l = .pulsing s.tbu.mono →
      exec (.strobePulseEnd l) s = .next { s with strobes := s.strobes.set l .idle }) ∧
    (∀ l, s.strobes.get l ≠ .pulsing s.tbu.mono → exec (.strobePulseEnd l) s = .next s) ∧
    (∀ p snap received, (s.ports.get p).receiver = .receiving s.tbu.mono snap received →
      exec (.frameTimeout p) s =
        .next (frameErrorAt p .timeout
          { s with ports := s.ports.set p { s.ports.get p with receiver := .discarding } })) ∧
    ∀ p, (∀ limit snap received, (s.ports.get p).receiver = .receiving limit snap received → limit ≠ s.tbu.mono) →
      exec (.frameTimeout p) s = .next s

/-! ### Entries -/

/-- While REALIGNING each of the five agenda commands is placed in its port's place on the held-command list with its
payload unexamined, its port stays WORKING with the mark held YES, and nothing else changes; while RUNNING each is taken at
once, by the rule by which a held one is taken at the end of a walk; a STEP_TIME passes the authority check first (R17, R81,
R82, R178). -/
def Obligations.FiveCommandsAreHeld : Prop :=
  ∀ (p : Port) (snap : Snapshot) (s : State) (seq : Byte) (payload : List Byte), Ready p snap s →
    (isRunning s = true →
      (payload.length = 8 → isHolder s p = true →
        exec (.stepTime p seq payload) s =
          .next (runAgendaCommand p (.step payload) (outstanding p snap 0x14 seq payload false s))) ∧
      (payload.length = 25 →
        exec (.createEntry p seq payload) s =
          .next (runAgendaCommand p (.create payload) (outstanding p snap 0x20 seq payload false s))) ∧
      (payload.length = 1 →
        exec (.cancelEntry p seq payload) s =
            .next (runAgendaCommand p (.cancel payload) (outstanding p snap 0x21 seq payload false s)) ∧
          exec (.queryEntry p seq payload) s =
            .next (runAgendaCommand p (.query payload) (outstanding p snap 0x22 seq payload false s))) ∧
      exec (.listOwn p seq []) s =
        .next (runAgendaCommand p .listOwn (outstanding p snap 0x23 seq [] false s))) ∧
    (isRunning s = false →
      (payload.length = 8 → isHolder s p = true →
        exec (.stepTime p seq payload) s =
          .next (outstanding p snap 0x14 seq payload true
            { s with agu := { s.agu with held := s.agu.held.set p (some (.step payload)) } })) ∧
      (payload.length = 25 →
        exec (.createEntry p seq payload) s =
          .next (outstanding p snap 0x20 seq payload true
            { s with agu := { s.agu with held := s.agu.held.set p (some (.create payload)) } })) ∧
      (payload.length = 1 →
        exec (.cancelEntry p seq payload) s =
          .next (outstanding p snap 0x21 seq payload true
            { s with agu := { s.agu with held := s.agu.held.set p (some (.cancel payload)) } })) ∧
      (payload.length = 1 →
        exec (.queryEntry p seq payload) s =
          .next (outstanding p snap 0x22 seq payload true
            { s with agu := { s.agu with held := s.agu.held.set p (some (.query payload)) } })) ∧
      exec (.listOwn p seq []) s =
        .next (outstanding p snap 0x23 seq [] true
          { s with agu := { s.agu with held := s.agu.held.set p (some .listOwn) } }))

/-- A CREATE_ENTRY that passes every check of R44 while RUNNING gives the lowest FREE slot of the port's window to a new
ARMED entry of the port, with the fields of the payload and the first due; it answers the handle and the first due, and
changes no other slot and nothing else. The first due of a ONE_SHOT WALL entry is the due given, that of a CALENDAR entry the
next match of its pattern after now, and that of a PERIODIC WALL entry the least point of the grid anchor + k × period
strictly after now; those of the ELAPSED entries are now plus the delay; each exists while it does not pass the last value
(R29, R31 to R34, R38, R39, R45). -/
def Obligations.CreateIsAccepted : Prop :=
  (∀ (p : Port) (snap : Snapshot) (s : State) (seq : Byte) (payload : List Byte) (c : CreateCodes) (tm : Timing)
      (due : Time) (h : Handle),
      Ready p snap s → isRunning s = true → payload.length = 25 →
        createCodes payload = some c → createCombination c = true →
        timingFields c.kind c.reference payload = some tm → (∀ pat, tm = .calendar pat → neverMatches pat = false) →
        firstDue s.tbu.timeline tm = some due → s.tbu.timeline < due →
        ownedCount s p < (s.pru.profiles.get p).quota.toNat →
        slot s h = none → inWindow (s.pru.profiles.get p) h = true →
        (∀ g, g < h → inWindow (s.pru.profiles.get p) g = true → slot s g ≠ none) →
          ∃ t : State,
            exec (.createEntry p seq payload) s =
                .next (answered p snap 0x20 seq payload .ok ([BitVec.ofNat 8 h.val] ++ timeBytes due) t) ∧
              slot t h = some
                { owner := p, tag := BitVec.ofNat 16 (numField payload 0 2), schedule := tm.schedule, policy := c.policy
                  notify := c.notify, strobe := c.strobe, persist := c.persist, status := .armed due, missed := 0
                  summary := none, terminal := none } ∧
              (∀ g, g ≠ h → slot t g = slot s g) ∧
              t = { s with agu := { s.agu with store := t.agu.store, agenda := t.agu.agenda } }) ∧
    ∀ now : Time,
      (∀ due : Time, firstDue now (.oneShotWall due) = some due) ∧
      (∀ pat : Pattern, firstDue now (.calendar pat) = nextMatch pat now) ∧
      (∀ (anchor : Time) (per : BitVec 40), 0 < per.toNat →
        (∀ due, firstDue now (.periodicWall anchor per) = some due ↔
          now < due ∧ (∃ k, due.toNat = anchor.toNat + k * per.toNat) ∧
            ∀ k, now.toNat < anchor.toNat + k * per.toNat → due.toNat ≤ anchor.toNat + k * per.toNat) ∧
        (firstDue now (.periodicWall anchor per) = none ↔
          ∀ k, now.toNat < anchor.toNat + k * per.toNat → lastTime.toNat < anchor.toNat + k * per.toNat)) ∧
      ∀ (delay per : BitVec 40) (due : Time),
        (firstDue now (.oneShotElapsed delay) = some due ↔ due.toNat = now.toNat + delay.toNat) ∧
        (firstDue now (.periodicElapsed delay per) = some due ↔ due.toNat = now.toNat + delay.toNat)

/-- A CREATE_ENTRY that fails a check of R44 while RUNNING completes with the result of the first check that fails, in the
order of the table, and changes nothing else (R30, R31, R36, R40, R44). -/
def Obligations.CreateIsRefusedInOrder : Prop :=
  ∀ (p : Port) (snap : Snapshot) (s : State) (seq : Byte) (payload : List Byte),
    Ready p snap s → isRunning s = true → payload.length = 25 →
      (createCodes payload = none →
        exec (.createEntry p seq payload) s = .next (answered p snap 0x20 seq payload .badValue [] s)) ∧
      ∀ c, createCodes payload = some c →
        (createCombination c = false ∨ timingFields c.kind c.reference payload = none →
          exec (.createEntry p seq payload) s = .next (answered p snap 0x20 seq payload .badValue [] s)) ∧
        ∀ tm, createCombination c = true → timingFields c.kind c.reference payload = some tm →
          ((∃ pat, tm = .calendar pat ∧ neverMatches pat = true) →
            exec (.createEntry p seq payload) s = .next (answered p snap 0x20 seq payload .noMatch [] s)) ∧
          (∀ due, tm = .oneShotWall due → due ≤ s.tbu.timeline →
            exec (.createEntry p seq payload) s = .next (answered p snap 0x20 seq payload .inPast [] s)) ∧
          (firstDue s.tbu.timeline tm = none →
            exec (.createEntry p seq payload) s = .next (answered p snap 0x20 seq payload .noMatch [] s)) ∧
          ∀ due, firstDue s.tbu.timeline tm = some due → s.tbu.timeline < due →
            (∀ pat, tm = .calendar pat → neverMatches pat = false) →
            ((s.pru.profiles.get p).quota.toNat ≤ ownedCount s p →
              exec (.createEntry p seq payload) s = .next (answered p snap 0x20 seq payload .quotaFull [] s)) ∧
            (ownedCount s p < (s.pru.profiles.get p).quota.toNat →
              (∀ h, inWindow (s.pru.profiles.get p) h = true → slot s h ≠ none) →
              exec (.createEntry p seq payload) s = .next (answered p snap 0x20 seq payload .noSlot [] s))

/-- CANCEL_ENTRY while RUNNING: a handle above 95, a FREE slot and another port's slot are refused with BAD_HANDLE; an ARMED
entry of the port ends CANCELLED, or is released at once if it has no reference; an ENDED one stays as it is; no other slot
and nothing else changes (R50 to R52). -/
def Obligations.CancelEndsTheEntry : Prop :=
  ∀ (p : Port) (snap : Snapshot) (s : State) (seq : Byte), Ready p snap s → isRunning s = true →
    (∀ x : Byte, (∀ (h : Handle) (e : Entry), x.toNat = h.val → slot s h = some e → e.owner ≠ p) →
      exec (.cancelEntry p seq [x]) s = .next (answered p snap 0x21 seq [x] .badHandle [] s)) ∧
    ∀ (h : Handle) (e : Entry), slot s h = some e → e.owner = p →
      (∀ cause, e.status = .ended cause →
        exec (.cancelEntry p seq [BitVec.ofNat 8 h.val]) s =
          .next (answered p snap 0x21 seq [BitVec.ofNat 8 h.val] .ok [0x02, 0x01] s)) ∧
      (∀ due, e.status = .armed due → hasReference s h e = true →
        exec (.cancelEntry p seq [BitVec.ofNat 8 h.val]) s =
          .next (answered p snap 0x21 seq [BitVec.ofNat 8 h.val] .ok [0x01, 0x01]
            { s with agu := { s.agu with
              store := s.agu.store.set h.val (some { e with status := .ended .cancelled }) h.isLt
              agenda := s.agu.agenda.filter fun g => g != h } })) ∧
      (∀ due, e.status = .armed due → hasReference s h e = false →
        exec (.cancelEntry p seq [BitVec.ofNat 8 h.val]) s =
          .next (answered p snap 0x21 seq [BitVec.ofNat 8 h.val] .ok [0x01, 0x00]
            { s with agu := { s.agu with
              store := s.agu.store.set h.val none h.isLt
              agenda := s.agu.agenda.filter fun g => g != h } }))

/-- QUERY_ENTRY while RUNNING: the owner and a port with ADMIN receive the 43 bytes of the record, any other port and a
handle that names no allocated slot are refused with BAD_HANDLE; nothing else changes (R53, 10.6, R200). That the value byte
of a day selector ANY is sent as 00h is the model's reading (log 16). -/
def Obligations.QueryReportsTheRecord : Prop :=
  ∀ (p : Port) (snap : Snapshot) (s : State) (seq : Byte), Ready p snap s → isRunning s = true →
    (∀ x : Byte, (∀ (h : Handle) (e : Entry), x.toNat = h.val → slot s h = some e →
        e.owner ≠ p ∧ (s.pru.profiles.get p).admin = false) →
      exec (.queryEntry p seq [x]) s = .next (answered p snap 0x22 seq [x] .badHandle [] s)) ∧
    ∀ (h : Handle) (e : Entry), slot s h = some e → e.owner = p ∨ (s.pru.profiles.get p).admin = true →
      ∃ out : List Byte,
        exec (.queryEntry p seq [BitVec.ofNat 8 h.val]) s =
            .next (answered p snap 0x22 seq [BitVec.ofNat 8 h.val] .ok out s) ∧
          out.length = 43 ∧ (byteAt out 0).toNat = h.val ∧ byteAt out 1 = portCode e.owner ∧
          numField out 2 2 = e.tag.toNat ∧ byteAt out 4 = kindCode e.schedule.kind ∧
          byteAt out 5 = referenceCode e.schedule.reference ∧ byteAt out 6 = policyCode e.policy ∧
          byteAt out 8 = boolCode e.notify ∧ byteAt out 9 = boolCode e.persist ∧
          (match e.strobe with
            | none => field out 10 2 = absentBytes 2
            | some a => byteAt out 10 = lineCode a.line ∧ byteAt out 11 = a.width) ∧
          (match e.status with
            | .armed due => byteAt out 7 = 0x01 ∧ timeField out 12 = some due ∧ byteAt out 37 = 0xFF
            | .ended cause => byteAt out 7 = 0x02 ∧ field out 12 6 = absentBytes 6 ∧ byteAt out 37 = endCauseCode cause) ∧
          (match e.schedule with
            | .periodicWall per anchor =>
              numField out 18 5 = per.toNat ∧ timeField out 23 = some anchor ∧ field out 29 6 = absentBytes 6
            | .periodicElapsed per =>
              numField out 18 5 = per.toNat ∧ field out 23 12 = absentBytes 12
            | .calendar pat => field out 18 11 = absentBytes 11 ∧ field out 29 6 = patternBytes pat
            | .oneShotWall => field out 18 17 = absentBytes 17
            | .oneShotElapsed => field out 18 17 = absentBytes 17) ∧
          (if e.schedule.kind = .oneShot then field out 35 2 = absentBytes 2 else numField out 35 2 = e.missed.toNat) ∧
          byteAt out 38 = BitVec.ofNat 8 (noticesFor s e.owner h) ∧ byteAt out 39 = boolCode e.summary.isSome ∧
          (match e.summary with
            | none => field out 40 2 = absentBytes 2
            | some r => numField out 40 2 = r.fires.toNat) ∧
          (match e.terminal with
            | none => byteAt out 42 = 0xFF
            | some r => byteAt out 42 = terminalCode r.reason)

/-- LIST_OWN while RUNNING answers the port's ARMED handles in agenda order and its ENDED handles in handle order, each
list after its count, and changes nothing else (R54). -/
def Obligations.ListOwnReportsTheSlots : Prop :=
  ∀ (p : Port) (snap : Snapshot) (s : State) (seq : Byte), Ready p snap s → isRunning s = true → AgendaInOrder s →
    ∃ armed ended : List Handle,
      exec (.listOwn p seq []) s =
          .next (answered p snap 0x23 seq [] .ok
            ([BitVec.ofNat 8 armed.length] ++ armed.map (fun h => BitVec.ofNat 8 h.val) ++
              [BitVec.ofNat 8 ended.length] ++ ended.map (fun h => BitVec.ofNat 8 h.val)) s) ∧
        armed.Sublist s.agu.agenda ∧ ended.Pairwise (· < ·) ∧
        (∀ h, h ∈ armed ↔ ∃ e due, slot s h = some e ∧ e.owner = p ∧ e.status = .armed due) ∧
        (∀ h, h ∈ ended ↔ ∃ e cause, slot s h = some e ∧ e.owner = p ∧ e.status = .ended cause) ∧
        armed.length + ended.length = ownedCount s p

/-! ### The walk and the firings -/

/-- A visit of the walk moves the walk position on by 1 and counts a skip under the SKIP rows of R71; a FREE or ENDED slot is
passed over; an ARMED entry is shifted, realigned, skipped or left as the tables of R71, R72 and R74 give; and an entry that
the visit ends reports to its owner if it has notify YES, its missed accumulator being 0 then, and is freed otherwise. No
other slot and no block but the AGU is reached, and by a report the owner's queue and attention line (R66, R70 to R75,
R104). That an entry keeps its due where the tables give it a next match or
grid point that does not exist is the model's choice (log 15). -/
def Obligations.WalkVisitTreatsOneSlot : Prop :=
  ∀ (s : State) (w : Walk) (hp : w.position < 96), limitDue s = false → walkOf s = some w →
    ∃ t : State, exec .walkVisit s = .next t ∧
      t.tbu = s.tbu ∧ t.lease = s.lease ∧ t.strobes = s.strobes ∧ t.pru = s.pru ∧ t.ports = s.ports ∧ t.spm = s.spm ∧
      t.draws = s.draws ∧ t.pending = s.pending ∧ t.agu.held = s.agu.held ∧
      (∀ g : Handle, g.val ≠ w.position → slot t g = slot s g) ∧
      ((∀ e due, slot s ⟨w.position, hp⟩ = some e → e.status ≠ .armed due) →
        t = { s with agu := { s.agu with state := .realigning { w with position := w.position + 1 } } }) ∧
      ∀ e due, slot s ⟨w.position, hp⟩ = some e → e.status = .armed due →
        t.agu.state =
            .realigning { w with
              position := w.position + 1, skipped := w.skipped + if countsAsSkipped w e due then 1 else 0 } ∧
          (∀ d k, realigned w e due = some (d, k) →
            slot t ⟨w.position, hp⟩ =
                some { e with status := .armed d, missed := BitVec.ofNat 16 (min (e.missed.toNat + k) 65535) } ∧
              t.queues = s.queues ∧ t.attn = s.attn) ∧
          (∀ r, r ≠ e.owner → t.attn.get r = s.attn.get r) ∧
          sameSetup (t.attn.get e.owner) (s.attn.get e.owner) ∧
          (realigned w e due = none → e.notify = false → hasReference s ⟨w.position, hp⟩ e = false →
            slot t ⟨w.position, hp⟩ = none ∧ t.queues = s.queues ∧ t.attn = s.attn) ∧
          (realigned w e due = none → e.notify = true →
            ∃ e', slot t ⟨w.position, hp⟩ = some e' ∧ sameFixedFields e' e ∧ e'.status = .ended (visitCause e) ∧
              e'.summary = e.summary ∧ e'.missed = (if e.schedule.kind = .oneShot then e.missed else 0) ∧
              (hasRoom s e.owner = true →
                lineAnswers e.owner s t ∧
                t.queues = s.queues.set e.owner
                    ⟨(s.queues.get e.owner).notices ++
                      [⟨(s.queues.get e.owner).nextSeq, ⟨w.position, hp⟩, e.tag,
                        visitReport w e due s.tbu.timeline (!inMain s), false⟩],
                      (s.queues.get e.owner).nextSeq + 1⟩ ∧ e'.terminal = e.terminal) ∧
              (hasRoom s e.owner = false →
                t.queues = s.queues ∧ t.attn = s.attn ∧ e'.terminal = some (visitReport w e due s.tbu.timeline (!inMain s))))

/-- The end of the walk, once the position is 96. With no command held the AGU is RUNNING, the step's response is completed
with the counts of the walk if it is wanted, and where no entry fires late and no entry is due nothing else changes. Held
commands are taken then: unless one of them is a step, the list is empty afterwards, the AGU is RUNNING, and every port that
waited is DONE with its command's code and sequence. In all, in a part in order: RUNNING; the late firings in handle order, of
the ARMED WALL entries with FIRE_LATE due at or before the new value of a forward walk; the step's response; the firings of
the entries due at the present value; the held commands in port order, each by its own rule. A held step that is refused
completes with BAD_VALUE and the next place follows; one that is taken begins a new walk, and the places after it keep their
commands (R60, R75, R78 to R80, R82, R83). -/
def Obligations.EndOfWalkCompletesTheStep : Prop :=
  ∀ (s : State) (w : Walk), limitDue s = false → walkOf s = some w → 96 ≤ w.position →
    ((∀ p, s.agu.held.get p = none) →
      ∃ t : State, exec .endOfWalk s = .next t ∧ isRunning t = true ∧
        t.tbu = s.tbu ∧ t.lease = s.lease ∧ t.pru = s.pru ∧ t.spm = s.spm ∧ t.draws = s.draws ∧ t.pending = s.pending ∧
        t.agu.held = s.agu.held ∧
        (∀ c, w.wanted = true → (s.ports.get w.port).state = .working c →
          t.ports = s.ports.set w.port { s.ports.get w.port with
            state := .done ⟨c.code, c.seq, .ok,
              timeBytes w.oldValue ++ timeBytes w.newValue ++ signedBytes 4 w.droppedSlew ++
                [BitVec.ofNat 8 (allHandles.countP (firesLate w s)), BitVec.ofNat 8 w.skipped]⟩ }) ∧
        (w.wanted = false → t.ports = s.ports) ∧
        ((∀ h, firesLate w s h = false) → dueHead s.tbu.timeline s = none →
          t = { s with agu := { s.agu with state := .running }, ports := t.ports })) ∧
    (InOrder s → (∀ p payload, s.agu.held.get p ≠ some (.step payload)) →
      ∃ t : State, exec .endOfWalk s = .next t ∧ isRunning t = true ∧
        ∀ p, t.agu.held.get p = none ∧
          ∀ c, (s.ports.get p).state = .working c → c.held = true →
            ∃ r, (t.ports.get p).state = .done r ∧ r.code = c.code ∧ r.seq = c.seq) ∧
    (InOrder s →
      ∃ late fired t : State,
        late = (allHandles.filter (firesLate w s)).foldl
            (fun x h => fireEntry h s.tbu.timeline w.newValue true x)
            { s with agu := { s.agu with state := .running } } ∧
        FiredThrough s.tbu.timeline
          (if w.wanted = true then
            complete w.port .ok
              (timeBytes w.oldValue ++ timeBytes w.newValue ++ signedBytes 4 w.droppedSlew ++
                [BitVec.ofNat 8 (allHandles.countP (firesLate w s)), BitVec.ofNat 8 w.skipped]) late
          else late) fired ∧
        HeldTaken [.a, .b, .c, .d] fired t ∧ exec .endOfWalk s = .next t) ∧
    (∀ h, firesLate w s h = true ↔
      ∃ e due, slot s h = some e ∧ e.status = .armed due ∧ e.schedule.reference = .wall ∧ e.policy = .fireLate ∧
        0 < w.delta ∧ due ≤ w.newValue) ∧
    ∀ (x : State) (p : Port) (payload : List Byte) (c : Command), (x.ports.get p).state = .working c →
      (stepTarget x.tbu.timeline payload = none →
        runAgendaCommand p (.step payload) x =
          { x with ports := x.ports.set p { x.ports.get p with state := .done ⟨c.code, c.seq, .badValue, []⟩ } }) ∧
      ∀ target, stepTarget x.tbu.timeline payload = some target →
        (runAgendaCommand p (.step payload) x).tbu =
            { x.tbu with timeline := target, slew := 0, validity := .valid } ∧
          (runAgendaCommand p (.step payload) x).ports = x.ports ∧
          (∀ r, (runAgendaCommand p (.step payload) x).attn.get r = (stepFlagged p r x).attn.get r) ∧
          (runAgendaCommand p (.step payload) x).lease = x.lease ∧
          (runAgendaCommand p (.step payload) x).queues = x.queues ∧
          (runAgendaCommand p (.step payload) x).strobes = x.strobes ∧
          (runAgendaCommand p (.step payload) x).pru = x.pru ∧ (runAgendaCommand p (.step payload) x).spm = x.spm ∧
          (runAgendaCommand p (.step payload) x).draws = x.draws ∧
          (runAgendaCommand p (.step payload) x).pending = x.pending ∧
          (runAgendaCommand p (.step payload) x).agu = { x.agu with
            state := .realigning
              { port := p, oldValue := x.tbu.timeline, newValue := target, droppedSlew := x.tbu.slew
                delta := (target.toNat : Int) - (x.tbu.timeline.toNat : Int)
                position := 0, skipped := 0, firedLate := 0, wanted := true } }

/-- A firing at a value, on time or late, of an ARMED entry that is due. Its pulse request is handed over first. With notify
YES its occurrence, which is LATE at a late firing, is merged into the UNDELIVERED FIRED notice of the entry, else appended
if the queue has room, else merged into the pending summary; the missed accumulator becomes 0; and the entry ends FIRED or
takes its next due, or, if it has none, ends EXHAUSTED with a terminal report with missed count 0 after the occurrence. With
notify NO nothing is handed to the NTU, and the entry is freed where it ends. A late firing advances against the new value of
the step. No other slot and nothing else is reached but the agenda, the strobe line and the owner's queue and attention line,
which answers where the queue takes a report; two records combine by the rule of R91 (R49, R61 to R66, R79, R90 to R93, R104). -/
def Obligations.FiringReportsAndAdvances : Prop :=
  (∀ (s : State) (h : Handle) (e : Entry) (due v ref : Time) (late : Bool),
      slot s h = some e → e.status = .armed due → due ≤ ref → late = true ∨ ref = v →
        ∃ t : State, t = fireEntry h v ref late s ∧
          t.tbu = s.tbu ∧ t.lease = s.lease ∧ t.pru = s.pru ∧ t.ports = s.ports ∧ t.spm = s.spm ∧ t.draws = s.draws ∧
          t.pending = s.pending ∧ t.agu.state = s.agu.state ∧ t.agu.held = s.agu.held ∧
          t.strobes = (requestPulse e.strobe e.owner s).1.strobes ∧
          (∀ g, g ≠ h → slot t g = slot s g) ∧
          (∀ p, p ≠ e.owner → t.attn.get p = s.attn.get p) ∧
          sameSetup (t.attn.get e.owner) (s.attn.get e.owner) ∧
          (e.notify = false →
            t.queues = s.queues ∧ t.attn = s.attn ∧
              (hasReference s h e = false →
                slot t h =
                  (match firedStatus e due ref with
                  | some (.armed d) => some { e with status := .armed d, missed := 0 }
                  | _ => none))) ∧
          (e.notify = true →
            (hasRoom s e.owner = true ∨ (s.queues.get e.owner).notices.any (isOpenFor h) = true →
              lineAnswers e.owner s t) ∧
            (hasRoom s e.owner = false → (s.queues.get e.owner).notices.any (isOpenFor h) = false →
              t.attn = s.attn)) ∧
          (e.notify = true →
            ∀ (q : NoticeQueue) (summary : Option Report),
              occurrenceTaken h e.tag
                  (firingOccurrence e due ref v late (requestPulse e.strobe e.owner s).2 (!inMain s))
                  (s.queues.get e.owner) e.summary = (q, summary) →
                (∀ st, firedStatus e due ref = some st →
                  t.queues = s.queues.set e.owner q ∧
                    slot t h = some { e with status := st, missed := 0, summary := summary }) ∧
                (firedStatus e due ref = none →
                  ∀ (q' : NoticeQueue) (terminal : Option Report),
                    terminalTaken h e.tag ⟨.exhausted, 0, 0, 0, v, v, ⟨!inMain s, false, false⟩⟩ q e.terminal =
                        (q', terminal) →
                      t.queues = s.queues.set e.owner q' ∧
                        slot t h = some { e with
                          status := .ended .exhausted, missed := 0, summary := summary, terminal := terminal }))) ∧
    ∀ x y : Report,
      (combine x y).reason = x.reason ∧ (combine x y).first = x.first ∧ (combine x y).last = y.last ∧
        (combine x y).fires.toNat = min (x.fires.toNat + y.fires.toNat) 65535 ∧
        (combine x y).late.toNat = min (x.late.toNat + y.late.toNat) 65535 ∧
        (combine x y).missed.toNat = min (x.missed.toNat + y.missed.toNat) 65535 ∧
        (combine x y).marks.holdover = (x.marks.holdover || y.marks.holdover) ∧
        (combine x y).marks.strobeSuppressed = (x.marks.strobeSuppressed || y.marks.strobeSuppressed) ∧
        ((combine x y).marks.saturated = true ↔
          x.marks.saturated = true ∨ y.marks.saturated = true ∨ 65535 < x.fires.toNat + y.fires.toNat ∨
            65535 < x.late.toNat + y.late.toNat ∨ 65535 < x.missed.toNat + y.missed.toNat)

/-- A pulse request is DRIVEN where the map gives the line to the entry's owner in MAIN, and the line pulses to the later of
its present end and now plus the width; it is SUPPRESSED and reaches nothing otherwise (R142). -/
def Obligations.PulseRequestIsJudged : Prop :=
  ∀ (s : State) (a : StrobeAction) (owner : Port),
    ((s.pru.strobeMap.get a.line).owner ≠ some owner ∨ s.spm.supply ≠ .main →
      requestPulse (some a) owner s = (s, true)) ∧
    ((s.pru.strobeMap.get a.line).owner = some owner → s.spm.supply = .main →
      ∃ e : Mono,
        requestPulse (some a) owner s = ({ s with strobes := s.strobes.set a.line (.pulsing e) }, false) ∧
          (s.strobes.get a.line = .idle → e = s.tbu.mono + a.width.setWidth 48) ∧
          ∀ present, s.strobes.get a.line = .pulsing present →
            (e = present ∨ e = s.tbu.mono + a.width.setWidth 48) ∧
              (e - s.tbu.mono).toNat = max (present - s.tbu.mono).toNat a.width.toNat)

/-- Every step of a part in order leaves no due entry behind while RUNNING (R60). -/
def Obligations.NoDueEntryIsLeftBehind : Prop :=
  ∀ (c : Instr) (s t : State), InOrder s → exec c s = .next t → NoDueLeftBehind t

/-- Every step of a part in order keeps the entry records, the walk record and the agenda, which holds exactly the ARMED
entries, each once, by due and then by handle (R28, R49, R59, R69, R75). -/
def Obligations.EntriesStayInOrder : Prop :=
  ∀ (c : Instr) (s t : State), InOrder s → exec c s = .next t → EntriesInOrder t ∧ WalkInOrder t ∧ AgendaInOrder t

/-! ### Notices -/

/-- TAKE_NOTICES with a max from 1 to 8 answers the first notices of the port's queue, at most max, marks them DELIVERED and
leaves every other field of the queue and its order; with any other max it is refused with BAD_VALUE. It is held by no walk.
The record of 24 bytes of a notice holds its fields at the offsets of 10.6 (R98, R104). -/
def Obligations.TakeNoticesDeliversTheFront : Prop :=
  (∀ (p : Port) (snap : Snapshot) (s : State) (seq max : Byte), Ready p snap s →
      (max = 0 ∨ 8 < max.toNat →
        exec (.takeNotices p seq [max]) s = .next (answered p snap 0x30 seq [max] .badValue [] s)) ∧
      (1 ≤ max.toNat → max.toNat ≤ 8 →
        ∃ after : List Notice,
          after = ((s.queues.get p).notices.take max.toNat).map (fun n => { n with delivered := true }) ++
              (s.queues.get p).notices.drop max.toNat ∧
            exec (.takeNotices p seq [max]) s =
              .next (answered p snap 0x30 seq [max] .ok
                ([BitVec.ofNat 8 (min max.toNat (s.queues.get p).notices.length)] ++
                  (((s.queues.get p).notices.take max.toNat).map noticeBytes).flatten ++
                  [BitVec.ofNat 8 (s.queues.get p).notices.length,
                    BitVec.ofNat 8 (after.countP fun n => !n.delivered)])
                (replaceQueue p { s.queues.get p with notices := after } s)))) ∧
    ∀ n : Notice,
      (noticeBytes n).length = 24 ∧ numField (noticeBytes n) 0 2 = n.seq.toNat ∧
        (byteAt (noticeBytes n) 2).toNat = n.handle.val ∧
        (byteAt (noticeBytes n) 3).toNat =
          (match n.report.reason with
            | .fired => 0
            | .skipped => 64
            | .exhausted => 128) +
            (if n.report.marks.saturated then 4 else 0) + (if n.report.marks.strobeSuppressed then 2 else 0) +
            (if n.report.marks.holdover then 1 else 0) ∧
        numField (noticeBytes n) 4 2 = n.tag.toNat ∧ numField (noticeBytes n) 6 2 = n.report.fires.toNat ∧
        numField (noticeBytes n) 8 2 = n.report.late.toNat ∧ numField (noticeBytes n) 10 2 = n.report.missed.toNat ∧
        timeField (noticeBytes n) 12 = some n.report.first ∧ timeField (noticeBytes n) 18 = some n.report.last

/-- ACK_NOTICES that names no DELIVERED notice of the port's queue is refused with BAD_SEQ and changes nothing else; one
that names such a notice removes the notices from the front through it, drains the pending parts of the port's entries into
the room, releases the ENDED entries left without a reference, and answers the numbers removed, queued and UNDELIVERED. What
the new queue and the drain do to flags, enables and line, HandOverReachesFlagAndLine and DrainEmptiesPendingParts say. A
release frees exactly the slots of the port's ENDED entries that have no notice, no pending summary and no terminal pending,
and changes nothing else (R48, R97, R100, R101). -/
def Obligations.AckNoticesRemovesThroughTheNamed : Prop :=
  (∀ (p : Port) (s : State) (freed : Handle → Bool),
      (∀ h, freed h = true ↔ ∃ e cause, slot s h = some e ∧ e.owner = p ∧ e.status = .ended cause ∧
        (∀ n ∈ (s.queues.get p).notices, n.handle ≠ h) ∧ e.summary = none ∧ e.terminal = none) →
        (∀ h, slot (releaseEnded p s) h = if freed h = true then none else slot s h) ∧
          releaseEnded p s = { s with agu := { s.agu with
            store := (releaseEnded p s).agu.store, agenda := s.agu.agenda.filter fun h => !freed h } }) ∧
  ∀ (p : Port) (snap : Snapshot) (s : State) (seq : Byte) (x : Half), Ready p snap s →
    ((∀ n ∈ (s.queues.get p).notices, n.seq = x → n.delivered = false) →
      exec (.ackNotices p seq (toBytes 2 x.toNat)) s =
        .next (answered p snap 0x31 seq (toBytes 2 x.toNat) .badSeq [] s)) ∧
    ∀ (i : Nat) (n : Notice), (s.queues.get p).notices[i]? = some n → n.seq = x → n.delivered = true →
      (∀ j m, j < i → (s.queues.get p).notices[j]? = some m → m.seq = x → m.delivered = false) →
        ∃ t : State,
          t = releaseEnded p (drain p
            (replaceQueue p { s.queues.get p with notices := (s.queues.get p).notices.drop (i + 1) } s)) ∧
          exec (.ackNotices p seq (toBytes 2 x.toNat)) s =
            .next (answered p snap 0x31 seq (toBytes 2 x.toNat) .ok
              [BitVec.ofNat 8 (i + 1), BitVec.ofNat 8 (t.queues.get p).notices.length,
                BitVec.ofNat 8 ((t.queues.get p).notices.countP fun n => !n.delivered)] t)

/-- A drain moves the pending parts of the port's entries, in handle order and each summary before the terminal report of
its entry, to the back of the queue, as UNDELIVERED notices with the next sequence numbers, until the queue is full; the
parts that find no room stay. So it stops only when the queue is full or no entry of the port has a pending part; it keeps
the total of the fires of every entry, a terminal pending having none, and moves nothing of another port. A drain that
appends makes the NOTICE source true, and the attention line of the port answers it; one that appends nothing leaves the
attention state; flags, causes, enables and modes stay (R89, R95, R96, R104, R132, R135 to R138). -/
def Obligations.DrainEmptiesPendingParts : Prop :=
  ∀ (p : Port) (s : State),
    (∃ new : List Notice,
      ((drain p s).queues.get p).notices = (s.queues.get p).notices ++ new ∧ (∀ n ∈ new, n.delivered = false) ∧
        new = asNotices (s.queues.get p).nextSeq ((pendingParts p s).take (16 - (s.queues.get p).notices.length)) ∧
        ((drain p s).queues.get p).nextSeq = (s.queues.get p).nextSeq + BitVec.ofNat 16 new.length) ∧
    pendingParts p (drain p s) = (pendingParts p s).drop (16 - (s.queues.get p).notices.length) ∧
    (hasRoom (drain p s) p = true →
      ∀ h e, slot (drain p s) h = some e → e.owner = p → e.summary = none ∧ e.terminal = none) ∧
    (∀ h, (∀ e r, slot s h = some e → e.terminal = some r → r.fires = 0) →
      firesTotal p h (drain p s) = firesTotal p h s) ∧
    (∀ r, r ≠ p → (drain p s).queues.get r = s.queues.get r) ∧
    (∀ h, (slot s h = none → slot (drain p s) h = none) ∧
      ∀ e, slot s h = some e → ∃ e', slot (drain p s) h = some e' ∧ sameFixedFields e' e ∧ e'.status = e.status ∧
        e'.missed = e.missed ∧ (e.owner ≠ p → e' = e)) ∧
    (drain p s).tbu = s.tbu ∧ (drain p s).lease = s.lease ∧ (drain p s).ports = s.ports ∧ (drain p s).pru = s.pru ∧
    (drain p s).spm = s.spm ∧ (drain p s).strobes = s.strobes ∧ (drain p s).agu.agenda = s.agu.agenda ∧
    (drain p s).agu.state = s.agu.state ∧ (drain p s).agu.held = s.agu.held ∧ (drain p s).draws = s.draws ∧
    (drain p s).pending = s.pending ∧ (∀ r, r ≠ p → (drain p s).attn.get r = s.attn.get r) ∧
    sameSetup ((drain p s).attn.get p) (s.attn.get p) ∧
    (((drain p s).queues.get p).notices = (s.queues.get p).notices → (drain p s).attn = s.attn) ∧
    (((drain p s).queues.get p).notices ≠ (s.queues.get p).notices →
      noticeSource (drain p s) p = true ∧ lineAnswers p s (drain p s))

/-- A firing occurrence adds one to the fires of exactly one notice or pending summary of its entry, unless that count
stands at 65535 already; it changes the fires of no other entry (R92, R95). -/
def Obligations.EachFiringIsCountedOnce : Prop :=
  ∀ (s : State) (p : Port) (h : Handle) (e : Entry) (tag : Half) (r : Report),
    QueueInOrder (s.queues.get p) → slot s h = some e → r.reason = .fired → r.fires = 1 →
      (firesTotal p h (takeOccurrence p h tag r s) = firesTotal p h s + 1 ∨
        (firesTotal p h (takeOccurrence p h tag r s) = firesTotal p h s ∧
          ((∃ n ∈ (s.queues.get p).notices, n.handle = h ∧ n.delivered = false ∧ n.report.fires = 0xFFFF) ∨
            ∃ x, e.summary = some x ∧ x.fires = 0xFFFF))) ∧
      ∀ g, g ≠ h → firesTotal p g (takeOccurrence p h tag r s) = firesTotal p g s

/-- Every step of a part in order keeps every notice queue: at most 16 notices, delivered ones first, at most one
UNDELIVERED FIRED notice for a handle, consecutive sequence numbers, and notices of the port's own allocated slots alone;
while a queue has room no entry of its port has a pending part, and an ENDED entry keeps its slot by a reference alone (R48,
R88, R89, R96). -/
def Obligations.QueuesStayInOrder : Prop :=
  ∀ (c : Instr) (s t : State), InOrder s → exec c s = .next t →
    QueuesInOrder t ∧ PendingWaitsForRoom t ∧ EndedHasReference t

/-! ### Attention and strobes -/

/-- What a flag handed to the ASU for a port does: the flag is set on that port alone, and its attention line answers. A
hand-over for every port does this at each port. What a change of a notice queue does: the queue is replaced, the attention
line of its port answers the change of the NOTICE source in the same event, and nothing else changes. In MAIN the line follows
the condition in LEVEL, and in PULSE a rise of the condition starts a pulse of 64 ticks and a fall ends it; outside MAIN it
stays (R104, R127, R132, R133, R135 to R138). -/
def Obligations.HandOverReachesFlagAndLine : Prop :=
  (∀ (f : Flag) (s : State),
    (∀ p, handFlag f p s = { s with attn := s.attn.set p ((handFlag f p s).attn.get p) } ∧
      ((handFlag f p s).attn.get p).flags = (s.attn.get p).flags ||| flagBit f ∧
      ((handFlag f p s).attn.get p).cause = (s.attn.get p).cause ∧
      ((handFlag f p s).attn.get p).enables = (s.attn.get p).enables ∧
      ((handFlag f p s).attn.get p).mode = (s.attn.get p).mode ∧ lineAnswers p s (handFlag f p s)) ∧
    ∃ attn : PerPort Attn, handFlagToAll f s = { s with attn := attn } ∧
      ∀ r, attn.get r = (handFlag f r s).attn.get r) ∧
  (∀ (s : State) (p : Port) (q : NoticeQueue),
    replaceQueue p q s =
        { s with queues := s.queues.set p q, attn := s.attn.set p ((replaceQueue p q s).attn.get p) } ∧
      sameSetup ((replaceQueue p q s).attn.get p) (s.attn.get p) ∧ lineAnswers p s (replaceQueue p q s)) ∧
  ∀ (s : State) (p : Port),
    (noticeSource s p = true ↔ ∃ n ∈ (s.queues.get p).notices, n.delivered = false) ∧
      (attnCondition s p = true ↔
        (noticeSource s p = true ∧ (s.attn.get p).enables.getLsbD 9 = true) ∨
          ∃ f : Flag, (s.attn.get p).flags.getLsbD (flagIndex f) = true ∧
            (s.attn.get p).enables.getLsbD (flagIndex f) = true)

/-- READ_FLAGS completes OK at any port, held by no walk, with one snapshot of the port's flags, cause, enables, mode, NOTICE
source, condition, line and pulse remaining, and changes nothing else (R130, 10.4). -/
def Obligations.ReadFlagsReportsThePort : Prop :=
  ∀ (p : Port) (snap : Snapshot) (s : State) (seq : Byte), Ready p snap s → LinesFollow s →
    ∃ out : List Byte, exec (.readFlags p seq []) s = .next (answered p snap 0x40 seq [] .ok out s) ∧
      out.length = 10 ∧ numField out 0 2 = (s.attn.get p).flags.toNat ∧
      byteAt out 2 = causeCode (s.attn.get p).cause ∧ numField out 3 2 = (s.attn.get p).enables.toNat ∧
      byteAt out 5 = attnModeCode (s.attn.get p).mode ∧
      byteAt out 6 = boolCode ((s.queues.get p).notices.any fun n => !n.delivered) ∧
      byteAt out 7 = boolCode (attnCondition s p) ∧ byteAt out 8 = attnLineCode (s.attn.get p).line ∧
      ((s.attn.get p).pulseEnd = none → byteAt out 9 = 0) ∧
      ∀ e, (s.attn.get p).pulseEnd = some e →
        (byteAt out 9).toNat = (e - s.tbu.mono).toNat ∧ 1 ≤ (byteAt out 9).toNat ∧ (byteAt out 9).toNat ≤ 64

/-- CLEAR_FLAGS with a set of the nine flags clears the named flags of its port, and the cause with FRAME; the attention
line follows a fall of the condition; it answers the flags cleared, the flags and the cause after. A set with another member
is refused with BAD_VALUE. Nothing else changes, and no walk holds it (R131, R135, R137). -/
def Obligations.ClearFlagsClearsTheNamed : Prop :=
  ∀ (p : Port) (snap : Snapshot) (s : State) (seq : Byte) (x : Half), Ready p snap s →
    (512 ≤ x.toNat →
      exec (.clearFlags p seq (toBytes 2 x.toNat)) s =
        .next (answered p snap 0x41 seq (toBytes 2 x.toNat) .badValue [] s)) ∧
    (x.toNat < 512 →
      ∃ (a : Attn) (t : State), t = { s with attn := s.attn.set p a } ∧
        exec (.clearFlags p seq (toBytes 2 x.toNat)) s =
          .next (answered p snap 0x41 seq (toBytes 2 x.toNat) .ok
            (toBytes 2 ((s.attn.get p).flags &&& x.setWidth 9).toNat ++ toBytes 2 a.flags.toNat ++ [causeCode a.cause])
            t) ∧
        a.flags = (s.attn.get p).flags &&& ~~~(x.setWidth 9) ∧
        a.cause = (if frameFlag s p = true ∧ x.getLsbD 6 = true then .none else (s.attn.get p).cause) ∧
        a.enables = (s.attn.get p).enables ∧ a.mode = (s.attn.get p).mode ∧
        (s.spm.supply ≠ .main → a.line = (s.attn.get p).line ∧ a.pulseEnd = (s.attn.get p).pulseEnd) ∧
        (s.spm.supply = .main → a.mode = .level → (a.line = .driven ↔ attnCondition t p = true) ∧ a.pulseEnd = none) ∧
        (s.spm.supply = .main → a.mode = .pulse → attnCondition s p = attnCondition t p →
          a.line = (s.attn.get p).line ∧ a.pulseEnd = (s.attn.get p).pulseEnd) ∧
        (s.spm.supply = .main → a.mode = .pulse → attnCondition s p = true → attnCondition t p = false →
          a.line = .released ∧ a.pulseEnd = none))

/-- SET_ATTENTION in MAIN with a set of the ten sources and a defined mode replaces enables and mode and proceeds with the
line by the table of R134; it answers what it replaced and the condition after. Any other set or mode is refused with
BAD_VALUE. Nothing else changes, and no walk holds it (R134). -/
def Obligations.SetAttentionReplacesTheSetup : Prop :=
  ∀ (p : Port) (snap : Snapshot) (s : State) (seq : Byte) (x : Half) (m : Byte), Ready p snap s →
    s.spm.supply = .main →
    (1024 ≤ x.toNat ∨ 1 < m.toNat →
      exec (.setAttention p seq (toBytes 2 x.toNat ++ [m])) s =
        .next (answered p snap 0x42 seq (toBytes 2 x.toNat ++ [m]) .badValue [] s)) ∧
    (x.toNat < 1024 → m.toNat ≤ 1 →
      ∃ (a : Attn) (t : State), t = { s with attn := s.attn.set p a } ∧
        exec (.setAttention p seq (toBytes 2 x.toNat ++ [m])) s =
          .next (answered p snap 0x42 seq (toBytes 2 x.toNat ++ [m]) .ok
            (toBytes 2 (s.attn.get p).enables.toNat ++
              [attnModeCode (s.attn.get p).mode, boolCode (attnCondition t p)]) t) ∧
        a.flags = (s.attn.get p).flags ∧ a.cause = (s.attn.get p).cause ∧ a.enables = x.setWidth 10 ∧
        a.mode = (if m = 0x00 then .level else .pulse) ∧
        (a.mode = .level → (a.line = .driven ↔ attnCondition t p = true) ∧ a.pulseEnd = none) ∧
        (a.mode = .pulse → attnCondition s p = false → attnCondition t p = true →
          a.line = .driven ∧ a.pulseEnd = some (s.tbu.mono + 64)) ∧
        (a.mode = .pulse → (s.attn.get p).mode = .level → attnCondition s p = true → attnCondition t p = true →
          a.line = .released ∧ a.pulseEnd = none) ∧
        (a.mode = .pulse → (s.attn.get p).mode = .pulse → attnCondition s p = true → attnCondition t p = true →
          a.line = (s.attn.get p).line ∧ a.pulseEnd = (s.attn.get p).pulseEnd) ∧
        (a.mode = .pulse → attnCondition t p = false → a.line = .released ∧ a.pulseEnd = none))

/-- Every step of a part in order keeps the outputs: every attention line stands as its mode, its condition and the supply
state give, the cause is NONE while FRAME is clear alone, and a strobe line pulses only in MAIN while the map names an owner.
The pins show the lines: an attention pin is pulled low while its line is DRIVEN alone; a strobe pin shows the active level of
its polarity while its line is PULSING and the inactive level while it is IDLE. So after every step outside MAIN no attention
pin is low and every strobe pin shows its inactive level (6.5, R129, R135 to R138, R141, R145). -/
def Obligations.OutputsStayInOrder : Prop :=
  (∀ (s : State) (p : Port), attnPinLow s p = true ↔ (s.attn.get p).line = .driven) ∧
  (∀ (s : State) (l : Line),
    (s.strobes.get l = .idle → (strobePinHigh s l = true ↔ (s.pru.strobeMap.get l).polarity = .activeLow)) ∧
      ∀ e, s.strobes.get l = .pulsing e →
        (strobePinHigh s l = true ↔ (s.pru.strobeMap.get l).polarity = .activeHigh)) ∧
  ∀ (c : Instr) (s t : State), InOrder s → exec c s = .next t →
    LinesFollow t ∧ CauseFollowsFrame t ∧ StrobesInOrder t ∧
      (t.spm.supply ≠ .main →
        (∀ p, attnPinLow t p = false) ∧
          ∀ l, strobePinHigh t l = true ↔ (t.pru.strobeMap.get l).polarity = .activeLow)

/-! ### Profiles -/

/-- READ_PROFILE answers the named port's record and owned count, the strobe map and the profile source; a letter other than
A to D is refused with BAD_VALUE. It is open to every port and changes nothing else (R158, 10.7). -/
def Obligations.ReadProfileReportsTheTables : Prop :=
  ∀ (p : Port) (snap : Snapshot) (s : State) (seq : Byte), Ready p snap s →
    (∀ x : Byte, x.toNat < 0x41 ∨ 0x44 < x.toNat →
      exec (.readProfile p seq [x]) s = .next (answered p snap 0x50 seq [x] .badValue [] s)) ∧
    ∀ t : Port,
      exec (.readProfile p seq [portCode t]) s =
        .next (answered p snap 0x50 seq [portCode t] .ok
          (profileBytes (s.pru.profiles.get t) ++ [BitVec.ofNat 8 (ownedCount s t)] ++
            [strobeByte (s.pru.strobeMap.get .l0), strobeByte (s.pru.strobeMap.get .l1),
              strobeByte (s.pru.strobeMap.get .l2), strobeByte (s.pru.strobeMap.get .l3)] ++
            [sourceCode s.pru.source]) s)

/-- SET_PROFILE from a port with ADMIN: values out of range are refused with BAD_VALUE, then a table without ADMIN with
LAST_ADMIN, then a quota below the owned count with QUOTA_BELOW_USE; an accepted one replaces the record, sets PROFILE on the
target, revokes the lease of a holder left without MAY_STEER, and answers the record replaced. SET_STROBE_MAP from such a
port: an undefined byte refuses it with BAD_VALUE; else the map is replaced, a line whose record changes becomes IDLE and
every other line keeps its pulse, so that the pin of a changed line shows the inactive level of its new polarity; it answers
the map replaced, sets no flag and changes nothing else (R120, R144, R152, R153, R155). -/
def Obligations.TablesAreReplaced : Prop :=
  ∀ (p : Port) (snap : Snapshot) (s : State) (seq : Byte), Ready p snap s → (s.pru.profiles.get p).admin = true →
    (∀ payload, payload.length = 7 → portOfCode (byteAt payload 0) = none ∨ profileAt payload 1 = none →
      exec (.setProfile p seq payload) s = .next (answered p snap 0x51 seq payload .badValue [] s)) ∧
    (∀ (t : Port) (r : Profile), profileInRange r = true →
        ((∀ q, ((s.pru.profiles.set t r).get q).admin = false) →
          exec (.setProfile p seq (portCode t :: profileBytes r)) s =
            .next (answered p snap 0x51 seq (portCode t :: profileBytes r) .lastAdmin [] s)) ∧
        ((∃ q, ((s.pru.profiles.set t r).get q).admin = true) → r.quota.toNat < ownedCount s t →
          exec (.setProfile p seq (portCode t :: profileBytes r)) s =
            .next (answered p snap 0x51 seq (portCode t :: profileBytes r) .quotaBelowUse [] s)) ∧
        ((∃ q, ((s.pru.profiles.set t r).get q).admin = true) → ownedCount s t ≤ r.quota.toNat →
          exec (.setProfile p seq (portCode t :: profileBytes r)) s =
            .next (answered p snap 0x51 seq (portCode t :: profileBytes r) .ok
              (portCode t :: profileBytes (s.pru.profiles.get t))
              (if isHolder s t = true ∧ r.maySteer = false then
                handFlag .leaseLost t
                  { handFlag .profile t { s with pru := { s.pru with profiles := s.pru.profiles.set t r } } with
                    lease := none }
              else handFlag .profile t { s with pru := { s.pru with profiles := s.pru.profiles.set t r } })))) ∧
    (∀ payload, payload.length = 4 → (∃ i, i < 4 ∧ strobeRecordOf (byteAt payload i) = none) →
      exec (.setStrobeMap p seq payload) s = .next (answered p snap 0x52 seq payload .badValue [] s)) ∧
    ∀ m : PerLine StrobeRecord,
      ∃ strobes : PerLine StrobeLine,
        exec (.setStrobeMap p seq (strobeMapBytes m)) s =
            .next (answered p snap 0x52 seq (strobeMapBytes m) .ok (strobeMapBytes s.pru.strobeMap)
              { s with pru := { s.pru with strobeMap := m }, strobes := strobes }) ∧
          (∀ l, strobes.get l = if m.get l = s.pru.strobeMap.get l then s.strobes.get l else .idle) ∧
          ∀ l, m.get l ≠ s.pru.strobeMap.get l →
            (strobePinHigh { s with pru := { s.pru with strobeMap := m }, strobes := strobes } l = true ↔
              (m.get l).polarity = .activeLow)

/-- SELF_RESET, and RESET_PORT that names its own port, make the port reset of the issuing port and deliver no response;
RESET_PORT that names another port makes the port reset of that port and answers its letter and its port state before; a
letter other than A to D is refused with BAD_VALUE (R156, R183). The code 00h of a NOT_READY or OFFLINE target is the model's
choice (log 20); in a part in order no target is in such a state when a command is taken. -/
def Obligations.ResetCommandsResetThePort : Prop :=
  ∀ (p : Port) (snap : Snapshot) (s : State) (seq : Byte), Ready p snap s →
    exec (.selfReset p seq []) s = .next (portReset p (outstanding p snap 0x02 seq [] false s)) ∧
    ((s.pru.profiles.get p).admin = true →
      (∀ x : Byte, x.toNat < 0x41 ∨ 0x44 < x.toNat →
        exec (.resetPort p seq [x]) s = .next (answered p snap 0x53 seq [x] .badValue [] s)) ∧
      exec (.resetPort p seq [portCode p]) s =
        .next (portReset p (outstanding p snap 0x53 seq [portCode p] false s)) ∧
      ∀ t, t ≠ p →
        exec (.resetPort p seq [portCode t]) s =
          .next (complete p .ok [portCode t, portStateCode (s.ports.get t).state]
            (portReset t (outstanding p snap 0x53 seq [portCode t] false s))))

/-- What a port reset leaves where the entries and the queues are in order: the port is IDLE, a transaction under way is
discarded, its flags are PORT_RESET, with LEASE_LOST if it held the lease, its enables are empty, its mode is LEVEL and its
line released; its held command goes and its walk wants no response; its entries with persist NO are freed, those with persist
YES keep their state, and their notices are merged back into their pending parts, which fill the emptied queue from the front
with UNDELIVERED notices numbered from 0, the total of the fires of each such entry being kept up to 65535. The timeline, the
tables, the strobe lines and everything of the other ports stay (R56, R57, R85, R91, R96, R106 to R108, R121, R140, R148,
R184). -/
def Obligations.PortResetClearsThePort : Prop :=
  ∀ (p : Port) (s : State), QueuesInOrder s → EntriesInOrder s → EndedHasReference s →
    (portReset p s).tbu = s.tbu ∧ (portReset p s).pru = s.pru ∧ (portReset p s).spm = s.spm ∧
    (portReset p s).strobes = s.strobes ∧ (portReset p s).draws = s.draws ∧ (portReset p s).pending = s.pending ∧
    (portReset p s).ports =
      s.ports.set p { s.ports.get p with
        state := .idle
        receiver :=
          match (s.ports.get p).receiver with
          | .receiving _ _ _ => .discarding
          | r => r } ∧
    (portReset p s).lease = (if isHolder s p = true then none else s.lease) ∧
    (portReset p s).attn =
      s.attn.set p
        ⟨flagBit .portReset ||| (if isHolder s p = true then flagBit .leaseLost else 0), .none, 0, .level, none,
          .released⟩ ∧
    (portReset p s).agu.held = s.agu.held.set p none ∧
    walkOf (portReset p s) =
      (walkOf s).map (fun w => if w.port = p then { w with wanted := false } else w) ∧
    (∀ r, r ≠ p → (portReset p s).queues.get r = s.queues.get r) ∧
    (∀ (i : Nat) (n : Notice), ((portReset p s).queues.get p).notices[i]? = some n →
      n.seq = BitVec.ofNat 16 i ∧ n.delivered = false) ∧
    ((portReset p s).queues.get p).nextSeq =
      BitVec.ofNat 16 ((portReset p s).queues.get p).notices.length ∧
    ((portReset p s).queues.get p).notices = asNotices 0 ((mergedBack p s).take 16) ∧
    pendingParts p (portReset p s) = (mergedBack p s).drop 16 ∧
    (∀ h e, slot s h = some e → e.owner = p → e.persist = true →
      firesTotal p h (portReset p s) = min (firesTotal p h s) 65535) ∧
    ∀ h, (slot s h = none → slot (portReset p s) h = none) ∧
      ∀ e, slot s h = some e →
        (e.owner ≠ p → slot (portReset p s) h = some e) ∧
        (e.owner = p → e.persist = false → slot (portReset p s) h = none) ∧
        (e.owner = p → e.persist = true →
          ∃ e', slot (portReset p s) h = some e' ∧ sameFixedFields e' e ∧ e'.status = e.status ∧ e'.missed = e.missed)

/-- A read of the profile image, by what the controller samples. Nine low samples after the clock pulses of a recovery, and
a byte sent that the memory does not acknowledge, end it with DEFAULT_ABSENT, the latter after a stop condition at once. Once
CFGSDA is high the controller is READING: it sends A0h, 00h and, after a repeated start, A1h, receives 33 bytes,
acknowledging all but the last, and forms a stop condition; the outcome is then IMAGE if the bytes pass the checks and
DEFAULT_BAD if not. With outcome IMAGE the tables of the image are installed, else the defaults; the source records the
outcome, the load is READY, the controller IDLE, every NOT_READY port becomes IDLE, and nothing else changes (R160 to R163,
R168). That the row carries samples, that fewer of them than the read needs leave it READING or, in the recovery, as it was,
and that the conditions and bytes are kept are the model's own (log 18); without a read that runs the row leaves the state,
which is the model's choice (log 2). -/
def Obligations.ProfileLoadCompletes : Prop :=
  ∀ (s : State) (r : ReadTransfer), limitDue s = false →
    (s.pru.load ≠ .loading ∨ s.pru.twoWire = .idle ∨ s.pru.twoWire = .held →
      exec (.profileLoadComplete r) s = .next s) ∧
    (s.pru.load = .loading →
      ∃ ports : PerPort PortCtl,
        (∀ p, ports.get p =
          if (s.ports.get p).state = .notReady then { s.ports.get p with state := .idle } else s.ports.get p) ∧
        (s.pru.twoWire = .recovering →
          (r.recovery.take 9 = List.replicate 9 false →
            exec (.profileLoadComplete r) s =
              .next { s with
                pru := ⟨defaultProfiles, defaultStrobeMap, .defaultAbsent, .ready, .idle,
                  s.pru.bus ++ List.replicate 9 (.pulse false)⟩
                ports := ports }) ∧
          (r.recovery.length < 9 → (∀ level ∈ r.recovery, level = false) →
            exec (.profileLoadComplete r) s = .next s)) ∧
        ∀ pulses : List Bool,
          s.pru.twoWire = .reading ∧ pulses = [] ∨
            s.pru.twoWire = .recovering ∧ pulses <+: r.recovery ∧ (∃ n, n < 9 ∧ pulses = List.replicate n false ++ [true]) →
          (∀ k, k < 3 → r.acks.take (k + 1) = List.replicate k true ++ [false] →
            exec (.profileLoadComplete r) s =
              .next { s with
                pru := ⟨defaultProfiles, defaultStrobeMap, .defaultAbsent, .ready, .idle,
                  s.pru.bus ++ pulses.map .pulse ++ refusedItems k⟩
                ports := ports }) ∧
          (r.acks.take 3 = [true, true, true] → 33 ≤ r.bytes.length →
            (∀ t m, judgeImage (r.bytes.take 33) = some (t, m) →
              exec (.profileLoadComplete r) s =
                .next { s with
                  pru := ⟨t, m, .image, .ready, .idle, s.pru.bus ++ pulses.map .pulse ++ readItems (r.bytes.take 33)⟩
                  ports := ports }) ∧
            (judgeImage (r.bytes.take 33) = none →
              exec (.profileLoadComplete r) s =
                .next { s with
                  pru := ⟨defaultProfiles, defaultStrobeMap, .defaultBad, .ready, .idle,
                    s.pru.bus ++ pulses.map .pulse ++ readItems (r.bytes.take 33)⟩
                  ports := ports })) ∧
          ((∃ k, k < 3 ∧ r.acks = List.replicate k true) ∨ r.acks.take 3 = [true, true, true] ∧ r.bytes.length < 33 →
            exec (.profileLoadComplete r) s =
              .next { s with pru := { s.pru with twoWire := .reading, bus := s.pru.bus ++ pulses.map .pulse } }))

/-- Every step of a part in order keeps the authority and the profiles: some profile carries ADMIN, every field lies in its
range, the holder's profile carries MAY_STEER, and no port owns more slots than its quota (R40, R112, R147, R149). -/
def Obligations.AuthorityStaysInOrder : Prop :=
  ∀ (c : Instr) (s t : State), InOrder s → exec c s = .next t →
    ProfilesInOrder t ∧ LeaseInOrder t ∧ QuotaKept t ∧ SteeringInRange t

/-! ### Transactions -/

/-- The assertion of select at a port that is WAITING and not OFFLINE: it is RECEIVING with a frame limit of 400 ticks and
the snapshot of status byte and collect reply, it drives data out, it counts the bytes that the host clocks and shifts out as
many, the first being the status byte, and it stores the first 53, or of a COLLECT the marker alone; at an OFFLINE port only the level of the pin changes, and data out stays at
high impedance (R165, R166, R169, R170, R175, 10.2). That the row carries the bytes clocked before the row that ends or
discards the transaction, what is stored after a first byte that is no marker, and the record of the shifted bytes, are the
model's own (logs 6, 7). That an OFFLINE port follows
the level of its select and leaves its receiver as it is, and that a second assertion changes nothing, is the model's choice
(logs 25, 2). -/
def Obligations.SelectAssertionTakesTheSnapshot : Prop :=
  ∀ (p : Port) (bytes : List Byte) (s : State), limitDue s = false →
    ((s.ports.get p).select = true → exec (.selectAssertion ⟨p, bytes⟩) s = .next s) ∧
    ((s.ports.get p).select = false → (s.ports.get p).receiver = .waiting → (s.ports.get p).state ≠ .offline →
      ∃ (status : Byte) (reply stored out : List Byte),
        exec (.selectAssertion ⟨p, bytes⟩) s =
          .next { s with
            ports := s.ports.set p
              ⟨true, (s.ports.get p).state,
                .receiving (s.tbu.mono + 400) ⟨status, reply⟩ ⟨stored, bytes.length⟩, out⟩ } ∧
        (bytes.head? = some 0x3C → stored = [0x3C]) ∧ (bytes.head? ≠ some 0x3C → stored = bytes.take 53) ∧
        out = shiftedOut ⟨status, reply⟩ bytes ∧ out.length = bytes.length ∧
        (bytes ≠ [] → out.head? = some status) ∧
        (bytes.head? = some 0xC3 → ∀ i, 0 < i → i < bytes.length → out[i]? = some 0) ∧
        (bytes.head? = some 0x3C →
          ∀ i, i + 1 < bytes.length → out[i + 1]? = some ((reply[i]?).getD 0)) ∧
        (status.toNat / 64 =
          match (s.ports.get p).state with
          | .idle => 1
          | .working _ => 2
          | .done _ => 3
          | _ => 0) ∧
        status.getLsbD 5 = attnCondition s p ∧ status.getLsbD 4 = noticeSource s p ∧
        status.getLsbD 3 = isHolder s p ∧ status.toNat / 2 % 4 = (validityCode s.tbu.validity).toNat ∧
        status.getLsbD 0 = frameFlag s p ∧
        (∀ t, exec (.selectAssertion ⟨p, bytes⟩) s = .next t → dataOutDriven (t.ports.get p) = true) ∧
        reply =
          (match (s.ports.get p).state with
          | .working _ => [0x01, 0x07]
          | .done r =>
            let covered := [0x02, r.code, r.seq, resultCode r.result, BitVec.ofNat 8 r.payload.length] ++ r.payload
            covered ++ [crc8 covered]
          | _ => [0x00, 0x00])) ∧
    ((s.ports.get p).select = false → (s.ports.get p).state = .offline →
      exec (.selectAssertion ⟨p, bytes⟩) s =
          .next { s with ports := s.ports.set p { s.ports.get p with select := true, dout := [] } } ∧
        ∀ t, exec (.selectAssertion ⟨p, bytes⟩) s = .next t → dataOutDriven (t.ports.get p) = false)

/-- A COLLECT changes no state of the part but the receiver, in any port state but OFFLINE, whatever the host sends after the
marker: it shifts out the status byte, the collect reply of the snapshot and 00h after it. An empty transaction, and the
release of a discarded one, is not judged and changes nothing else; a discarded one shifts out 00h for every byte that the
host clocks from the event on that discarded it, after those that it shifted out before; and at an OFFLINE port data out is
at high impedance (R165, R166, R168, R169, R173, R175, R176). The same holds of an OFFLINE port with every row of a
transaction. That the shifted bytes are kept is the model's own record (log 7), and so is the select level of an OFFLINE port
(log 25). -/
def Obligations.CollectChangesNothing : Prop :=
  ∀ (p : Port) (snap : Snapshot) (s : State), limitDue s = false →
    ((s.ports.get p).state ≠ .offline → Selected p snap s →
      (∀ (after : List Byte) (bits : Fin 8),
        ∃ out : List Byte,
          exec (.collect p after bits) s =
              .next { s with ports := s.ports.set p ⟨false, (s.ports.get p).state, .waiting, out⟩ } ∧
            out.length = after.length + 1 ∧ out[0]? = some snap.status ∧
            ∀ i, i < after.length → out[i + 1]? = some ((snap.reply[i]?).getD 0)) ∧
      exec (.emptyTransaction p) s =
        .next { s with ports := s.ports.set p ⟨false, (s.ports.get p).state, .waiting, []⟩ }) ∧
    ((s.ports.get p).state ≠ .offline → (s.ports.get p).select = true → (s.ports.get p).receiver = .discarding →
      exec (.emptyTransaction p) s =
          .next { s with
            ports := s.ports.set p ⟨false, (s.ports.get p).state, .waiting, (s.ports.get p).dout⟩ } ∧
        ∀ (bytes : List Byte) (bits : Fin 8),
          exec (.frameError p bytes bits) s =
              .next { s with
                ports := s.ports.set p
                  ⟨false, (s.ports.get p).state, .waiting,
                    (s.ports.get p).dout ++ List.replicate bytes.length 0⟩ } ∧
            exec (.collect p bytes bits) s =
              .next { s with
                ports := s.ports.set p
                  ⟨false, (s.ports.get p).state, .waiting,
                    (s.ports.get p).dout ++ List.replicate (bytes.length + 1) 0⟩ } ∧
            ∀ code seq : Byte, ∀ x ∈ requestRows p code seq bytes,
              exec x s =
                .next { s with
                  ports := s.ports.set p
                    ⟨false, (s.ports.get p).state, .waiting,
                      (s.ports.get p).dout ++ List.replicate (bytes.length + 5) 0⟩ }) ∧
    ((s.ports.get p).state = .offline → (s.ports.get p).select = true →
      exec (.emptyTransaction p) s =
          .next { s with ports := s.ports.set p { s.ports.get p with select := false } } ∧
        ∀ (bytes : List Byte) (bits : Fin 8),
          exec (.frameError p bytes bits) s =
              .next { s with ports := s.ports.set p { s.ports.get p with select := false } } ∧
            exec (.collect p bytes bits) s =
              .next { s with ports := s.ports.set p { s.ports.get p with select := false } } ∧
            ∀ code seq : Byte, ∀ x ∈ requestRows p code seq bytes,
              exec x s = .next { s with ports := s.ports.set p { s.ports.get p with select := false } })

/-- The frame errors: a first byte that is no marker, then a wrong length, then a wrong check byte; a good REQUEST at a
WORKING port is BUSY and at a NOT_READY port NOT_READY. Each sets FRAME on its port with its cause, its attention line answers,
and but for the released receiver nothing else changes: no port state, no command and no response (R129, R135 to R138, R171,
R172). Nothing of a frame is acted on before the release, so bytes that stand in the receiver and bytes that the releasing row
carries are judged alike (R170); that rows carry them so, and that the shifted bytes are kept, is the model's own (logs 6, 7).
What setting FRAME changes holds in every state. -/
def Obligations.FrameErrorsAreRecorded : Prop :=
  (∀ (p : Port) (s : State), limitDue s = false → (s.ports.get p).state ≠ .offline →
    (∀ (snap : Snapshot) (bytes : List Byte) (bits : Fin 8), Selected p snap s → bytes ≠ [] ∨ bits ≠ 0 →
      ((∀ x, bytes.head? = some x → x ≠ 0xC3 ∧ x ≠ 0x3C) →
        exec (.frameError p bytes bits) s =
          .next (frameErrorAt p .marker (transacted p snap bytes (s.ports.get p).state s))) ∧
      (bytes.head? = some 0xC3 →
        bits ≠ 0 ∨ bytes.length < 4 ∨ 48 < (byteAt bytes 3).toNat ∨ bytes.length ≠ (byteAt bytes 3).toNat + 5 →
        exec (.frameError p bytes bits) s =
          .next (frameErrorAt p .length (transacted p snap bytes (s.ports.get p).state s))) ∧
      (bytes.head? = some 0xC3 → bits = 0 → 4 ≤ bytes.length → (byteAt bytes 3).toNat ≤ 48 →
        bytes.length = (byteAt bytes 3).toNat + 5 →
        byteAt bytes (bytes.length - 1) ≠ crc8 ((bytes.drop 1).dropLast) →
        exec (.frameError p bytes bits) s =
          .next (frameErrorAt p .crc (transacted p snap bytes (s.ports.get p).state s)))) ∧
    (∀ (snap : Snapshot) (code seq : Byte) (payload : List Byte), Selected p snap s → payload.length ≤ 48 →
      (∀ c, (s.ports.get p).state = .working c →
        exec (.frameError p (requestFrame code seq payload) 0) s =
          .next (frameErrorAt p .busy (transacted p snap (requestFrame code seq payload) (.working c) s))) ∧
      ((s.ports.get p).state = .notReady →
        exec (.frameError p (requestFrame code seq payload) 0) s =
          .next (frameErrorAt p .notReady (transacted p snap (requestFrame code seq payload) .notReady s)))) ∧
    (∀ (limit : Mono) (snap : Snapshot) (first stored : List Byte) (x : State), (s.ports.get p).select = true →
      (first.head? = some 0x3C → stored = [0x3C]) → (first.head? ≠ some 0x3C → stored = first.take 53) →
      (s.ports.get p).receiver = .receiving limit snap ⟨stored, first.length⟩ →
      x = { s with ports := s.ports.set p { s.ports.get p with receiver := .receiving limit snap ⟨[], 0⟩ } } →
        exec (.emptyTransaction p) s = exec (.frameError p first 0) x ∧
          ∀ (bytes : List Byte) (bits : Fin 8),
            exec (.frameError p bytes bits) s = exec (.frameError p (first ++ bytes) bits) x ∧
              exec (.collect p bytes bits) s = exec (.frameError p (first ++ 0x3C :: bytes) bits) x ∧
              (∀ code seq : Byte,
                exec (.unknownCommand p code seq bytes) s =
                  exec (.frameError p (first ++ requestFrame code seq bytes) 0) x) ∧
              ∀ seq : Byte, ∀ c ∈ commandTable,
                exec (c.row p seq bytes) s =
                  exec (.frameError p (first ++ requestFrame c.code seq bytes) 0) x)) ∧
  ∀ (p : Port) (s t : State) (cause : FrameCause), t = frameErrorAt p cause s →
      t.ports = s.ports ∧ t.tbu = s.tbu ∧ t.lease = s.lease ∧ t.agu = s.agu ∧ t.queues = s.queues ∧
        t.strobes = s.strobes ∧ t.pru = s.pru ∧ t.spm = s.spm ∧ t.draws = s.draws ∧ t.pending = s.pending ∧
        (t.attn.get p).flags = (s.attn.get p).flags ||| flagBit .frame ∧ (t.attn.get p).cause = cause ∧
        (t.attn.get p).enables = (s.attn.get p).enables ∧ (t.attn.get p).mode = (s.attn.get p).mode ∧
        lineAnswers p s t ∧
        ∀ r, r ≠ p → t.attn.get r = s.attn.get r

/-- IDENTIFY completes OK at any port in any profile and validity state, held by no walk, with the eight bytes of R182, the
last being the letter of the port; it changes no other state and sets no flag. -/
def Obligations.IdentifyAnswers : Prop :=
  ∀ (p : Port) (snap : Snapshot) (s : State) (seq : Byte), Ready p snap s →
    exec (.identify p seq []) s =
      .next (answered p snap 0x01 seq [] .ok [0x47, 0x4C, 1, 4, 96, 16, 4, portCode p] s)

/-- A command with a code that is not one of the 22 of 10.3 completes with UNKNOWN_COMMAND, and each of the 22 with a payload
of another length than 10.3 gives it with BAD_LENGTH; it reaches no other block, is not held and sets no flag (R177). That such
a frame may come with the row FRAME_ERROR or with the row of its command is the model's choice (log 8). -/
def Obligations.UnknownAndMislengthedAreAnswered : Prop :=
  (∀ (code : Byte) (n : Nat), payloadLength code = some n ↔ ∃ x ∈ commandTable, x.code = code ∧ x.length = n) ∧
  ∀ (p : Port) (snap : Snapshot) (s : State) (seq : Byte) (payload : List Byte), Ready p snap s →
    payload.length ≤ 48 →
      (∀ code : Byte, (∀ x ∈ commandTable, x.code ≠ code) →
        exec (.unknownCommand p code seq payload) s =
          .next (answered p snap code seq payload .unknownCommand [] s)) ∧
      ∀ x ∈ commandTable, payload.length ≠ x.length →
        exec (x.row p seq payload) s = .next (answered p snap x.code seq payload .badLength [] s) ∧
          exec (.frameError p (requestFrame x.code seq payload) 0) s =
            .next (answered p snap x.code seq payload .badLength [] s)

/-! ### Supply, reset and load -/

/-- Holdover entry from MAIN: every port is OFFLINE with its transaction abandoned, the held commands go and a walk wants no
response, the lease is revoked with LEASE_LOST on its holder, every attention and strobe line is released, and a load that
runs waits for the supply; the timeline, the entries, the queues, the profiles and every other flag stay. Outside MAIN the
row leaves the state, which is the model's choice (R87, R122, R138, R145, R159, R169, R188; log 2). -/
def Obligations.HoldoverEntryDropsThePorts : Prop :=
  ∀ s : State, limitDue s = false →
    (s.spm.supply ≠ .main → exec .holdoverEntry s = .next s) ∧
    (s.spm.supply = .main →
      ∃ t : State, exec .holdoverEntry s = .next t ∧ t.tbu = s.tbu ∧ t.lease = none ∧ t.queues = s.queues ∧
        t.draws = s.draws ∧ t.pending = s.pending ∧ t.spm = { s.spm with supply := .holdover } ∧
        t.agu.store = s.agu.store ∧ t.agu.agenda = s.agu.agenda ∧ (∀ p, t.agu.held.get p = none) ∧
        walkOf t = (walkOf s).map (fun w => { w with wanted := false }) ∧
        (∀ p, t.ports.get p =
            { s.ports.get p with
              state := .offline, receiver := if (s.ports.get p).select then .discarding else .waiting } ∧
          t.attn.get p =
            { s.attn.get p with
              line := .released, pulseEnd := none
              flags := (s.attn.get p).flags ||| if isHolder s p = true then flagBit .leaseLost else 0 }) ∧
        (∀ p, attnPinLow t p = false) ∧
        (∀ l, t.strobes.get l = .idle ∧
          (strobePinHigh t l = true ↔ (s.pru.strobeMap.get l).polarity = .activeLow)) ∧
        t.pru = { s.pru with
          twoWire := .idle
          load := if s.pru.load = .loading then .waitingSupply else s.pru.load })

/-- Settle start and settle abort: the supply state alone changes, to SETTLING with a settle end 160 ticks away, and back to
HOLDOVER with the settle end removed. A change of the backup state hands SUPPLY to every port and changes nothing else, in
every supply state (R187, R191). That the rows leave the state where they do not apply is the model's choice (log 2), and so
is the abort before a settle end that is due (log 12). -/
def Obligations.SupplyRowsMoveTheirState : Prop :=
  ∀ s : State,
    (limitDue s = false →
      (s.spm.supply = .holdover →
        exec .settleStart s =
          .next { s with spm := { s.spm with supply := .settling (s.tbu.mono + 160) } }) ∧
      (s.spm.supply ≠ .holdover → exec .settleStart s = .next s) ∧
      (s.spm.backup = .present →
        exec .backupLow s = .next (handFlagToAll .supply { s with spm := { s.spm with backup := .low } }) ∧
          exec .backupPresent s = .next s) ∧
      (s.spm.backup = .low →
        exec .backupPresent s = .next (handFlagToAll .supply { s with spm := { s.spm with backup := .present } }) ∧
          exec .backupLow s = .next s)) ∧
    (∀ e, s.spm.supply = .settling e →
      exec .settleAbort s = .next { s with spm := { s.spm with supply := .holdover } }) ∧
    ((∀ e, s.spm.supply ≠ .settling e) → exec .settleAbort s = .next s)

/-- Resume, at the tick that brings the monotonic count to the settle end, with SYSRSTN not asserted: the supply state is
MAIN, each port is IDLE if the load is READY and NOT_READY otherwise, RESUMED is set on every port and each attention line
takes up its mode, and a load that waited begins a read; the rest stays. With SYSRSTN asserted the system reset follows. At
any other time the row leaves the state, which is the model's choice (R138, R159, R169, R189, R194; log 2). -/
def Obligations.ResumeReturnsThePorts : Prop :=
  ∀ s : State,
    (s.spm.supply ≠ .settling s.tbu.mono → exec .resume s = .next s) ∧
    (s.spm.supply = .settling s.tbu.mono →
      ∃ t : State, exec .resume s = .next (if s.spm.resetAsserted = true then systemReset t else t) ∧
        t.tbu = s.tbu ∧ t.lease = s.lease ∧ t.agu = s.agu ∧ t.queues = s.queues ∧ t.strobes = s.strobes ∧
        t.pending = s.pending ∧ t.spm = { s.spm with supply := .main } ∧
        (∀ p, t.ports.get p =
            { s.ports.get p with
              state := if s.pru.load = .ready ∧ s.spm.resetAsserted = false then .idle else .notReady
              receiver := if (s.ports.get p).select then .discarding else .waiting } ∧
          (t.attn.get p).flags = (s.attn.get p).flags ||| flagBit .resumed ∧
          (t.attn.get p).cause = (s.attn.get p).cause ∧ (t.attn.get p).enables = (s.attn.get p).enables ∧
          (t.attn.get p).mode = (s.attn.get p).mode ∧
          ((t.attn.get p).line = .driven ↔ attnCondition t p = true) ∧
          (t.attn.get p).pulseEnd =
            (if (t.attn.get p).mode = .pulse ∧ attnCondition t p = true then some (s.tbu.mono + 64) else none)) ∧
        t.pru.profiles = s.pru.profiles ∧ t.pru.strobeMap = s.pru.strobeMap ∧ t.pru.source = s.pru.source ∧
        (s.pru.load ≠ .waitingSupply → t.pru = s.pru ∧ t.draws = s.draws) ∧
        (s.pru.load = .waitingSupply →
          t.pru.load = .loading ∧ (t.pru.twoWire = .recovering ∨ t.pru.twoWire = .reading)))

/-- Power-on gives every block its power-on state whatever stood before, by the levels that it finds: in MAIN every port is
NOT_READY and the read of the profile image begins, and otherwise every port is OFFLINE and the load waits; RESTARTED alone
is set. With SYSRSTN low in MAIN the system reset follows (R24, R55, R105, R126, R139, R146, R148, R159, R168, R191,
R193). That the row may come in any state, and that the queue of waiting commands stays, is the model's choice (log 17). -/
def Obligations.PowerOnStartsEveryBlock : Prop :=
  ∀ (l : PowerLevels) (s : State),
    ∃ t : State, exec (.powerOn l) s = .next (if l.vddHigh = true ∧ l.resetLow = true then systemReset t else t) ∧
      t.tbu = ⟨0, 0, 0, 0, 0, .unset, .notArmed⟩ ∧ t.lease = none ∧ (∀ h, slot t h = none) ∧ t.agu.agenda = [] ∧
      isRunning t = true ∧ t.pending = s.pending ∧
      (∀ p, t.agu.held.get p = none ∧ t.queues.get p = ⟨[], 0⟩ ∧
        t.attn.get p = ⟨flagBit .restarted, .none, 0, .level, none, .released⟩ ∧
        t.ports.get p =
          ⟨l.select.get p, if l.vddHigh then .notReady else .offline,
            if l.select.get p then .discarding else .waiting, []⟩) ∧
      (∀ k, t.strobes.get k = .idle ∧ strobePinHigh t k = false) ∧ t.pru.profiles = defaultProfiles ∧ t.pru.strobeMap = defaultStrobeMap ∧
      t.pru.source = .defaultAbsent ∧
      t.spm = ⟨if l.vddHigh then .main else .holdover, if l.vbatHigh then .present else .low, l.resetLow⟩ ∧
      (l.vddHigh = true →
        t.pru.load = .loading ∧ (t.pru.twoWire = .recovering ∨ t.pru.twoWire = .reading)) ∧
      (l.vddHigh = false → t.pru.load = .waitingSupply ∧ t.pru.twoWire = .idle)

/-- The reset input: an assertion in MAIN is a system reset, which keeps the timeline, the counts, the trim, the validity and
the SPM, drops the slew and the lease, frees every slot, empties the queues, sets RESTARTED alone, installs the default
tables with the controller HELD, and makes every port NOT_READY; outside MAIN it is only recorded. A release in MAIN with the
controller HELD begins a read (R25, R55, R105, R126, R139, R146, R148, R159, R168, R194 to R196). That the profile source
keeps its value at a system reset is the model's reading (log 22), and that a row without a change of the input leaves the
state its choice (log 2). -/
def Obligations.ResetInputResetsTheSystem : Prop :=
  ∀ s : State, limitDue s = false →
    (s.spm.resetAsserted = true → exec .sysrstnAssertion s = .next s) ∧
    (s.spm.resetAsserted = false → exec .sysrstnRelease s = .next s) ∧
    (s.spm.resetAsserted = false → s.spm.supply ≠ .main →
      exec .sysrstnAssertion s = .next { s with spm := { s.spm with resetAsserted := true } }) ∧
    (s.spm.resetAsserted = false → s.spm.supply = .main →
      ∃ t : State, exec .sysrstnAssertion s = .next t ∧ t.tbu = { s.tbu with slew := 0 } ∧ t.lease = none ∧
        (∀ h, slot t h = none) ∧ t.agu.agenda = [] ∧ isRunning t = true ∧ t.draws = s.draws ∧ t.pending = s.pending ∧
        t.spm = { s.spm with resetAsserted := true } ∧
        t.pru = ⟨defaultProfiles, defaultStrobeMap, s.pru.source, .loading, .held, s.pru.bus⟩ ∧
        (∀ l, t.strobes.get l = .idle ∧ strobePinHigh t l = false) ∧
        ∀ p, t.agu.held.get p = none ∧ t.queues.get p = ⟨[], 0⟩ ∧
          t.attn.get p = ⟨flagBit .restarted, .none, 0, .level, none, .released⟩ ∧
          t.ports.get p = { s.ports.get p with
            state := .notReady
            receiver :=
              match (s.ports.get p).receiver with
              | .receiving _ _ _ => .discarding
              | r => r }) ∧
    (s.spm.resetAsserted = true → s.spm.supply = .main → s.pru.twoWire = .held →
      ∃ t : State, exec .sysrstnRelease s = .next t ∧
        t = { s with spm := { s.spm with resetAsserted := false }, pru := t.pru, draws := t.draws } ∧
        (∃ phase, t.pru = { s.pru with load := .loading, twoWire := phase, bus := [] } ∧ (phase = .recovering ∨ phase = .reading))) ∧
    (s.spm.resetAsserted = true → s.spm.supply ≠ .main ∨ s.pru.twoWire ≠ .held →
      exec .sysrstnRelease s = .next { s with spm := { s.spm with resetAsserted := false } })

/-- The part is in order right after reset. That it starts in MAIN with every select released is the model's choice
(log 4). -/
def Obligations.ResetIsInOrder : Prop := InOrder State.reset

/-- Every step of a part in order leaves it in order: each of the invariants of Safety.lean is kept by every row (R2, R40,
R48, R59, R60, R88, R96, R112, R129, R149, R167). The record of the shifted bytes in one of them is the model's own (log 7). -/
def Obligations.EveryStepKeepsTheOrder : Prop :=
  ∀ s t : State, InOrder s → step s = .next t → InOrder t

/-- Every step of a part in order keeps the ports in step with the supply, the load and the agenda: OFFLINE outside MAIN
alone, NOT_READY in MAIN until the load is READY alone, WORKING on a command that is not held only while a walk wants its
response, and a held command at its place alone; and nothing is owned, queued, pulsed or leased before the load is READY. A
port that receives stores at most 53 bytes, of a COLLECT the marker alone, and counts all, and it has shifted out its snapshot
for them; what is stored after a first byte that is no marker, and the record of the shifted bytes, are the model's own (logs
6, 7) (R80, R81, R146, R159, R163, R165 to R170, R175, R178). -/
def Obligations.PortsStayInOrder : Prop :=
  ∀ (c : Instr) (s t : State), InOrder s → exec c s = .next t →
    PortsFollowSupply t ∧ ReceiversFollowSelect t ∧ LoadFollowsSupply t ∧ NothingBeforeLoad t ∧ WorkingOnStep t ∧
      HeldFollowsPorts t
end

