-- ==== Sys2Proof/Laws/State.lean ====
section
/-! SUPPORT. The per-port and per-line tables, and what each named update of State leaves and changes. -/

namespace Sys2Proof

/-! ### Tables -/

@[simp] theorem PerPort.get_set_self {α : Type} (q : PerPort α) (p : Port) (x : α) : (q.set p x).get p = x := by
  cases p <;> rfl

theorem PerPort.get_set {α : Type} (q : PerPort α) (p r : Port) (x : α) :
    (q.set p x).get r = if r = p then x else q.get r := by
  cases p <;> cases r <;> rfl

@[simp] theorem PerPort.get_set_ne {α : Type} (q : PerPort α) {p r : Port} (x : α) (h : r ≠ p) :
    (q.set p x).get r = q.get r := by
  rw [PerPort.get_set, if_neg h]

@[simp] theorem PerPort.set_set {α : Type} (q : PerPort α) (p : Port) (x y : α) : (q.set p x).set p y = q.set p y := by
  cases p <;> rfl

@[simp] theorem PerPort.set_get {α : Type} (q : PerPort α) (p : Port) : q.set p (q.get p) = q := by
  cases p <;> rfl

@[simp] theorem PerPort.get_const {α : Type} (x : α) (p : Port) : (PerPort.const x).get p = x := by
  cases p <;> rfl

@[simp] theorem PerPort.get_map {α β : Type} (f : α → β) (q : PerPort α) (p : Port) :
    (q.map f).get p = f (q.get p) := by
  cases p <;> rfl

/-- Two tables that agree at every port are equal. -/
theorem PerPort.ext_get {α : Type} {q r : PerPort α} (h : ∀ p, q.get p = r.get p) : q = r := by
  obtain ⟨a, b, c, d⟩ := q
  obtain ⟨a', b', c', d'⟩ := r
  have ha := h .a
  have hb := h .b
  have hc := h .c
  have hd := h .d
  simp only [PerPort.get] at ha hb hc hd
  subst ha hb hc hd
  rfl

@[simp] theorem PerLine.get_set_self {α : Type} (q : PerLine α) (l : Line) (x : α) : (q.set l x).get l = x := by
  cases l <;> rfl

theorem PerLine.get_set {α : Type} (q : PerLine α) (l m : Line) (x : α) :
    (q.set l x).get m = if m = l then x else q.get m := by
  cases l <;> cases m <;> rfl

@[simp] theorem PerLine.get_set_ne {α : Type} (q : PerLine α) {l m : Line} (x : α) (h : m ≠ l) :
    (q.set l x).get m = q.get m := by
  rw [PerLine.get_set, if_neg h]

@[simp] theorem PerLine.get_const {α : Type} (x : α) (l : Line) : (PerLine.const x).get l = x := by
  cases l <;> rfl

namespace Machine

/-! ### setTbu -/

@[simp] theorem State.setTbu_tbu (s : State) (x : Tbu) : (s.setTbu x).tbu = x := rfl
@[simp] theorem State.setTbu_lease (s : State) (x : Tbu) : (s.setTbu x).lease = s.lease := rfl
@[simp] theorem State.setTbu_agu (s : State) (x : Tbu) : (s.setTbu x).agu = s.agu := rfl
@[simp] theorem State.setTbu_queues (s : State) (x : Tbu) : (s.setTbu x).queues = s.queues := rfl
@[simp] theorem State.setTbu_attn (s : State) (x : Tbu) : (s.setTbu x).attn = s.attn := rfl
@[simp] theorem State.setTbu_strobes (s : State) (x : Tbu) : (s.setTbu x).strobes = s.strobes := rfl
@[simp] theorem State.setTbu_pru (s : State) (x : Tbu) : (s.setTbu x).pru = s.pru := rfl
@[simp] theorem State.setTbu_ports (s : State) (x : Tbu) : (s.setTbu x).ports = s.ports := rfl
@[simp] theorem State.setTbu_spm (s : State) (x : Tbu) : (s.setTbu x).spm = s.spm := rfl
@[simp] theorem State.setTbu_draws (s : State) (x : Tbu) : (s.setTbu x).draws = s.draws := rfl
@[simp] theorem State.setTbu_pending (s : State) (x : Tbu) : (s.setTbu x).pending = s.pending := rfl

/-! ### setLease -/

@[simp] theorem State.setLease_tbu (s : State) (x : Option Lease) : (s.setLease x).tbu = s.tbu := rfl
@[simp] theorem State.setLease_lease (s : State) (x : Option Lease) : (s.setLease x).lease = x := rfl
@[simp] theorem State.setLease_agu (s : State) (x : Option Lease) : (s.setLease x).agu = s.agu := rfl
@[simp] theorem State.setLease_queues (s : State) (x : Option Lease) : (s.setLease x).queues = s.queues := rfl
@[simp] theorem State.setLease_attn (s : State) (x : Option Lease) : (s.setLease x).attn = s.attn := rfl
@[simp] theorem State.setLease_strobes (s : State) (x : Option Lease) : (s.setLease x).strobes = s.strobes := rfl
@[simp] theorem State.setLease_pru (s : State) (x : Option Lease) : (s.setLease x).pru = s.pru := rfl
@[simp] theorem State.setLease_ports (s : State) (x : Option Lease) : (s.setLease x).ports = s.ports := rfl
@[simp] theorem State.setLease_spm (s : State) (x : Option Lease) : (s.setLease x).spm = s.spm := rfl
@[simp] theorem State.setLease_draws (s : State) (x : Option Lease) : (s.setLease x).draws = s.draws := rfl
@[simp] theorem State.setLease_pending (s : State) (x : Option Lease) : (s.setLease x).pending = s.pending := rfl

/-! ### setAgu -/

@[simp] theorem State.setAgu_tbu (s : State) (x : Agu) : (s.setAgu x).tbu = s.tbu := rfl
@[simp] theorem State.setAgu_lease (s : State) (x : Agu) : (s.setAgu x).lease = s.lease := rfl
@[simp] theorem State.setAgu_agu (s : State) (x : Agu) : (s.setAgu x).agu = x := rfl
@[simp] theorem State.setAgu_queues (s : State) (x : Agu) : (s.setAgu x).queues = s.queues := rfl
@[simp] theorem State.setAgu_attn (s : State) (x : Agu) : (s.setAgu x).attn = s.attn := rfl
@[simp] theorem State.setAgu_strobes (s : State) (x : Agu) : (s.setAgu x).strobes = s.strobes := rfl
@[simp] theorem State.setAgu_pru (s : State) (x : Agu) : (s.setAgu x).pru = s.pru := rfl
@[simp] theorem State.setAgu_ports (s : State) (x : Agu) : (s.setAgu x).ports = s.ports := rfl
@[simp] theorem State.setAgu_spm (s : State) (x : Agu) : (s.setAgu x).spm = s.spm := rfl
@[simp] theorem State.setAgu_draws (s : State) (x : Agu) : (s.setAgu x).draws = s.draws := rfl
@[simp] theorem State.setAgu_pending (s : State) (x : Agu) : (s.setAgu x).pending = s.pending := rfl

/-! ### setQueue -/

@[simp] theorem State.setQueue_tbu (s : State) (p : Port) (x : NoticeQueue) : (s.setQueue p x).tbu = s.tbu := rfl
@[simp] theorem State.setQueue_lease (s : State) (p : Port) (x : NoticeQueue) : (s.setQueue p x).lease = s.lease := rfl
@[simp] theorem State.setQueue_agu (s : State) (p : Port) (x : NoticeQueue) : (s.setQueue p x).agu = s.agu := rfl
@[simp] theorem State.setQueue_queues (s : State) (p : Port) (x : NoticeQueue) : (s.setQueue p x).queues = s.queues.set p x := rfl
@[simp] theorem State.setQueue_attn (s : State) (p : Port) (x : NoticeQueue) : (s.setQueue p x).attn = s.attn := rfl
@[simp] theorem State.setQueue_strobes (s : State) (p : Port) (x : NoticeQueue) : (s.setQueue p x).strobes = s.strobes := rfl
@[simp] theorem State.setQueue_pru (s : State) (p : Port) (x : NoticeQueue) : (s.setQueue p x).pru = s.pru := rfl
@[simp] theorem State.setQueue_ports (s : State) (p : Port) (x : NoticeQueue) : (s.setQueue p x).ports = s.ports := rfl
@[simp] theorem State.setQueue_spm (s : State) (p : Port) (x : NoticeQueue) : (s.setQueue p x).spm = s.spm := rfl
@[simp] theorem State.setQueue_draws (s : State) (p : Port) (x : NoticeQueue) : (s.setQueue p x).draws = s.draws := rfl
@[simp] theorem State.setQueue_pending (s : State) (p : Port) (x : NoticeQueue) : (s.setQueue p x).pending = s.pending := rfl

/-! ### setAttn -/

@[simp] theorem State.setAttn_tbu (s : State) (p : Port) (x : Attn) : (s.setAttn p x).tbu = s.tbu := rfl
@[simp] theorem State.setAttn_lease (s : State) (p : Port) (x : Attn) : (s.setAttn p x).lease = s.lease := rfl
@[simp] theorem State.setAttn_agu (s : State) (p : Port) (x : Attn) : (s.setAttn p x).agu = s.agu := rfl
@[simp] theorem State.setAttn_queues (s : State) (p : Port) (x : Attn) : (s.setAttn p x).queues = s.queues := rfl
@[simp] theorem State.setAttn_attn (s : State) (p : Port) (x : Attn) : (s.setAttn p x).attn = s.attn.set p x := rfl
@[simp] theorem State.setAttn_strobes (s : State) (p : Port) (x : Attn) : (s.setAttn p x).strobes = s.strobes := rfl
@[simp] theorem State.setAttn_pru (s : State) (p : Port) (x : Attn) : (s.setAttn p x).pru = s.pru := rfl
@[simp] theorem State.setAttn_ports (s : State) (p : Port) (x : Attn) : (s.setAttn p x).ports = s.ports := rfl
@[simp] theorem State.setAttn_spm (s : State) (p : Port) (x : Attn) : (s.setAttn p x).spm = s.spm := rfl
@[simp] theorem State.setAttn_draws (s : State) (p : Port) (x : Attn) : (s.setAttn p x).draws = s.draws := rfl
@[simp] theorem State.setAttn_pending (s : State) (p : Port) (x : Attn) : (s.setAttn p x).pending = s.pending := rfl

/-! ### setStrobe -/

@[simp] theorem State.setStrobe_tbu (s : State) (l : Line) (x : StrobeLine) : (s.setStrobe l x).tbu = s.tbu := rfl
@[simp] theorem State.setStrobe_lease (s : State) (l : Line) (x : StrobeLine) : (s.setStrobe l x).lease = s.lease := rfl
@[simp] theorem State.setStrobe_agu (s : State) (l : Line) (x : StrobeLine) : (s.setStrobe l x).agu = s.agu := rfl
@[simp] theorem State.setStrobe_queues (s : State) (l : Line) (x : StrobeLine) : (s.setStrobe l x).queues = s.queues := rfl
@[simp] theorem State.setStrobe_attn (s : State) (l : Line) (x : StrobeLine) : (s.setStrobe l x).attn = s.attn := rfl
@[simp] theorem State.setStrobe_strobes (s : State) (l : Line) (x : StrobeLine) : (s.setStrobe l x).strobes = s.strobes.set l x := rfl
@[simp] theorem State.setStrobe_pru (s : State) (l : Line) (x : StrobeLine) : (s.setStrobe l x).pru = s.pru := rfl
@[simp] theorem State.setStrobe_ports (s : State) (l : Line) (x : StrobeLine) : (s.setStrobe l x).ports = s.ports := rfl
@[simp] theorem State.setStrobe_spm (s : State) (l : Line) (x : StrobeLine) : (s.setStrobe l x).spm = s.spm := rfl
@[simp] theorem State.setStrobe_draws (s : State) (l : Line) (x : StrobeLine) : (s.setStrobe l x).draws = s.draws := rfl
@[simp] theorem State.setStrobe_pending (s : State) (l : Line) (x : StrobeLine) : (s.setStrobe l x).pending = s.pending := rfl

/-! ### setPru -/

@[simp] theorem State.setPru_tbu (s : State) (x : Pru) : (s.setPru x).tbu = s.tbu := rfl
@[simp] theorem State.setPru_lease (s : State) (x : Pru) : (s.setPru x).lease = s.lease := rfl
@[simp] theorem State.setPru_agu (s : State) (x : Pru) : (s.setPru x).agu = s.agu := rfl
@[simp] theorem State.setPru_queues (s : State) (x : Pru) : (s.setPru x).queues = s.queues := rfl
@[simp] theorem State.setPru_attn (s : State) (x : Pru) : (s.setPru x).attn = s.attn := rfl
@[simp] theorem State.setPru_strobes (s : State) (x : Pru) : (s.setPru x).strobes = s.strobes := rfl
@[simp] theorem State.setPru_pru (s : State) (x : Pru) : (s.setPru x).pru = x := rfl
@[simp] theorem State.setPru_ports (s : State) (x : Pru) : (s.setPru x).ports = s.ports := rfl
@[simp] theorem State.setPru_spm (s : State) (x : Pru) : (s.setPru x).spm = s.spm := rfl
@[simp] theorem State.setPru_draws (s : State) (x : Pru) : (s.setPru x).draws = s.draws := rfl
@[simp] theorem State.setPru_pending (s : State) (x : Pru) : (s.setPru x).pending = s.pending := rfl

/-! ### setPort -/

@[simp] theorem State.setPort_tbu (s : State) (p : Port) (x : PortCtl) : (s.setPort p x).tbu = s.tbu := rfl
@[simp] theorem State.setPort_lease (s : State) (p : Port) (x : PortCtl) : (s.setPort p x).lease = s.lease := rfl
@[simp] theorem State.setPort_agu (s : State) (p : Port) (x : PortCtl) : (s.setPort p x).agu = s.agu := rfl
@[simp] theorem State.setPort_queues (s : State) (p : Port) (x : PortCtl) : (s.setPort p x).queues = s.queues := rfl
@[simp] theorem State.setPort_attn (s : State) (p : Port) (x : PortCtl) : (s.setPort p x).attn = s.attn := rfl
@[simp] theorem State.setPort_strobes (s : State) (p : Port) (x : PortCtl) : (s.setPort p x).strobes = s.strobes := rfl
@[simp] theorem State.setPort_pru (s : State) (p : Port) (x : PortCtl) : (s.setPort p x).pru = s.pru := rfl
@[simp] theorem State.setPort_ports (s : State) (p : Port) (x : PortCtl) : (s.setPort p x).ports = s.ports.set p x := rfl
@[simp] theorem State.setPort_spm (s : State) (p : Port) (x : PortCtl) : (s.setPort p x).spm = s.spm := rfl
@[simp] theorem State.setPort_draws (s : State) (p : Port) (x : PortCtl) : (s.setPort p x).draws = s.draws := rfl
@[simp] theorem State.setPort_pending (s : State) (p : Port) (x : PortCtl) : (s.setPort p x).pending = s.pending := rfl

/-! ### setSpm -/

@[simp] theorem State.setSpm_tbu (s : State) (x : Spm) : (s.setSpm x).tbu = s.tbu := rfl
@[simp] theorem State.setSpm_lease (s : State) (x : Spm) : (s.setSpm x).lease = s.lease := rfl
@[simp] theorem State.setSpm_agu (s : State) (x : Spm) : (s.setSpm x).agu = s.agu := rfl
@[simp] theorem State.setSpm_queues (s : State) (x : Spm) : (s.setSpm x).queues = s.queues := rfl
@[simp] theorem State.setSpm_attn (s : State) (x : Spm) : (s.setSpm x).attn = s.attn := rfl
@[simp] theorem State.setSpm_strobes (s : State) (x : Spm) : (s.setSpm x).strobes = s.strobes := rfl
@[simp] theorem State.setSpm_pru (s : State) (x : Spm) : (s.setSpm x).pru = s.pru := rfl
@[simp] theorem State.setSpm_ports (s : State) (x : Spm) : (s.setSpm x).ports = s.ports := rfl
@[simp] theorem State.setSpm_spm (s : State) (x : Spm) : (s.setSpm x).spm = x := rfl
@[simp] theorem State.setSpm_draws (s : State) (x : Spm) : (s.setSpm x).draws = s.draws := rfl
@[simp] theorem State.setSpm_pending (s : State) (x : Spm) : (s.setSpm x).pending = s.pending := rfl

end Machine

end Sys2Proof
end

