-- ==== Sys2Proof/Laws/Flags.lean ====
section
/-! SUPPORT. What a flag hand-over and the attention line's answer leave unchanged. -/

namespace Sys2Proof.Machine

/-! ### The attention line -/

@[simp] theorem answeredLine_keeps (m : Mono) (b c : Bool) (a : Attn) :
    (answeredLine m b c a).flags = a.flags ∧ (answeredLine m b c a).cause = a.cause ∧
    (answeredLine m b c a).enables = a.enables ∧ (answeredLine m b c a).mode = a.mode := by
  unfold answeredLine levelLine startedPulse releasedLine
  split
  · simp
  · split
    · simp
    · split <;> simp

/-- Following the condition changes the attention line and pulse of one port and nothing else. -/
theorem followAttention_eq (p : Port) (b : Bool) (s : State) :
    followAttention p b s = s ∨
    followAttention p b s = s.setAttn p (answeredLine s.tbu.mono b (attnCondition s p) (s.attn.get p)) := by
  unfold followAttention
  split
  · exact .inr rfl
  · exact .inl rfl

@[simp] theorem followAttention_frame (p : Port) (b : Bool) (s : State) :
    (followAttention p b s).tbu = s.tbu ∧ (followAttention p b s).lease = s.lease ∧
    (followAttention p b s).agu = s.agu ∧ (followAttention p b s).queues = s.queues ∧
    (followAttention p b s).strobes = s.strobes ∧ (followAttention p b s).pru = s.pru ∧
    (followAttention p b s).ports = s.ports ∧ (followAttention p b s).spm = s.spm ∧
    (followAttention p b s).draws = s.draws ∧ (followAttention p b s).pending = s.pending := by
  rcases followAttention_eq p b s with h | h <;> simp [h]

/-- The ASU state of every port keeps its flags, cause, enables and mode. -/
@[simp] theorem followAttention_attn (p r : Port) (b : Bool) (s : State) :
    ((followAttention p b s).attn.get r).flags = (s.attn.get r).flags ∧
    ((followAttention p b s).attn.get r).cause = (s.attn.get r).cause ∧
    ((followAttention p b s).attn.get r).enables = (s.attn.get r).enables ∧
    ((followAttention p b s).attn.get r).mode = (s.attn.get r).mode := by
  rcases followAttention_eq p b s with h | h
  · simp [h]
  · rw [h, State.setAttn_attn, PerPort.get_set]
    split
    · next h => subst h; simp
    · simp

/-- The attention state of every other port is as it was. -/
theorem followAttention_other (p r : Port) (b : Bool) (s : State) (h : r ≠ p) :
    (followAttention p b s).attn.get r = s.attn.get r := by
  rcases followAttention_eq p b s with e | e <;> simp [e, h]

/-- The attention state of the port itself: in MAIN its line answers (R133). -/
theorem followAttention_self (p : Port) (b : Bool) (s : State) :
    (followAttention p b s).attn.get p =
      if inMain s = true then answeredLine s.tbu.mono b (attnCondition s p) (s.attn.get p) else s.attn.get p := by
  unfold followAttention
  split <;> simp

/-! ### The attention condition -/

/-- The condition is formed from the flags, the enables and the NOTICE source of its port (R133). -/
theorem attnCondition_congr {s t : State} {p : Port} (hf : (t.attn.get p).flags = (s.attn.get p).flags)
    (he : (t.attn.get p).enables = (s.attn.get p).enables) (hn : noticeSource t p = noticeSource s p) :
    attnCondition t p = attnCondition s p := by
  simp [attnCondition, attnSources, hf, he, hn]

theorem noticeSource_congr {s t : State} (h : t.queues = s.queues) (p : Port) :
    noticeSource t p = noticeSource s p := by
  simp [noticeSource, h]

@[simp] theorem attnCondition_followAttention (p q : Port) (b : Bool) (s : State) :
    attnCondition (followAttention p b s) q = attnCondition s q :=
  attnCondition_congr (by simp) (by simp) (noticeSource_congr (by simp) q)

/-! ### Hand-overs -/

/-- The attention state that a hand-over leaves at its port (R127, R133, R135, R136). -/
theorem handFlag_self (f : Flag) (p : Port) (s : State) :
    (handFlag f p s).attn.get p =
      if inMain s = true then
        answeredLine s.tbu.mono (attnCondition s p) (attnCondition (handFlag f p s) p)
          { s.attn.get p with flags := (s.attn.get p).flags ||| flagBit f }
      else { s.attn.get p with flags := (s.attn.get p).flags ||| flagBit f } := by
  simp only [handFlag, followAttention_self, attnCondition_followAttention, State.setAttn_attn, PerPort.get_set_self]
  rfl

/-- A hand-over leaves the attention state of every other port. -/
theorem handFlag_other (f : Flag) {p r : Port} (s : State) (h : r ≠ p) :
    (handFlag f p s).attn.get r = s.attn.get r := by
  rw [handFlag, followAttention_other _ _ _ _ h]
  simp [h]

@[simp] theorem handFlag_frame (f : Flag) (p : Port) (s : State) :
    (handFlag f p s).tbu = s.tbu ∧ (handFlag f p s).lease = s.lease ∧ (handFlag f p s).agu = s.agu ∧
    (handFlag f p s).queues = s.queues ∧ (handFlag f p s).strobes = s.strobes ∧ (handFlag f p s).pru = s.pru ∧
    (handFlag f p s).ports = s.ports ∧ (handFlag f p s).spm = s.spm ∧ (handFlag f p s).draws = s.draws ∧
    (handFlag f p s).pending = s.pending := by
  simp [handFlag]

/-- A hand-over sets its flag on its port and leaves every other flag of every port. -/
theorem handFlag_flags (f : Flag) (p r : Port) (s : State) :
    ((handFlag f p s).attn.get r).flags = if r = p then (s.attn.get r).flags ||| flagBit f else (s.attn.get r).flags := by
  simp only [handFlag, followAttention_attn, State.setAttn_attn, PerPort.get_set]
  split
  · next h => subst h; rfl
  · rfl

@[simp] theorem handFlag_config (f : Flag) (p r : Port) (s : State) :
    ((handFlag f p s).attn.get r).cause = (s.attn.get r).cause ∧
    ((handFlag f p s).attn.get r).enables = (s.attn.get r).enables ∧
    ((handFlag f p s).attn.get r).mode = (s.attn.get r).mode := by
  simp only [handFlag, followAttention_attn, State.setAttn_attn, PerPort.get_set]
  split
  · next h => subst h; simp
  · simp

@[simp] theorem handFlagToAll_frame (f : Flag) (s : State) :
    (handFlagToAll f s).tbu = s.tbu ∧ (handFlagToAll f s).lease = s.lease ∧ (handFlagToAll f s).agu = s.agu ∧
    (handFlagToAll f s).queues = s.queues ∧ (handFlagToAll f s).strobes = s.strobes ∧
    (handFlagToAll f s).pru = s.pru ∧ (handFlagToAll f s).ports = s.ports ∧ (handFlagToAll f s).spm = s.spm ∧
    (handFlagToAll f s).draws = s.draws ∧ (handFlagToAll f s).pending = s.pending := by
  simp [handFlagToAll, allPorts]

/-- A hand-over for every port sets its flag on all four (R127). -/
theorem handFlagToAll_flags (f : Flag) (r : Port) (s : State) :
    ((handFlagToAll f s).attn.get r).flags = (s.attn.get r).flags ||| flagBit f := by
  cases r <;> simp [handFlagToAll, allPorts, handFlag_flags]

@[simp] theorem handFlagToAll_config (f : Flag) (r : Port) (s : State) :
    ((handFlagToAll f s).attn.get r).cause = (s.attn.get r).cause ∧
    ((handFlagToAll f s).attn.get r).enables = (s.attn.get r).enables ∧
    ((handFlagToAll f s).attn.get r).mode = (s.attn.get r).mode := by
  simp [handFlagToAll, allPorts]

/-- A property that one hand-over keeps is kept by a hand-over to all ports but one. -/
theorem handFlagToOthers_keeps {P : State → Prop} (f : Flag) (e : Port) (s : State)
    (step : ∀ p t, P t → P (handFlag f p t)) (h : P s) : P (handFlagToOthers f e s) := by
  unfold handFlagToOthers
  generalize allPorts = l
  induction l generalizing s with
  | nil => exact h
  | cons p l ih =>
    rw [List.foldl_cons]
    split
    · exact ih s h
    · exact ih _ (step p s h)

@[simp] theorem handFlagToOthers_frame (f : Flag) (e : Port) (s : State) :
    (handFlagToOthers f e s).tbu = s.tbu ∧ (handFlagToOthers f e s).lease = s.lease ∧
    (handFlagToOthers f e s).agu = s.agu ∧ (handFlagToOthers f e s).queues = s.queues ∧
    (handFlagToOthers f e s).strobes = s.strobes ∧ (handFlagToOthers f e s).pru = s.pru ∧
    (handFlagToOthers f e s).ports = s.ports ∧ (handFlagToOthers f e s).spm = s.spm ∧
    (handFlagToOthers f e s).draws = s.draws ∧ (handFlagToOthers f e s).pending = s.pending :=
  handFlagToOthers_keeps
    (P := fun t => t.tbu = s.tbu ∧ t.lease = s.lease ∧ t.agu = s.agu ∧ t.queues = s.queues ∧
      t.strobes = s.strobes ∧ t.pru = s.pru ∧ t.ports = s.ports ∧ t.spm = s.spm ∧ t.draws = s.draws ∧
      t.pending = s.pending)
    f e s (fun p t h => by simpa using h) (by simp)

/-- A hand-over to the other ports sets its flag on every port but the one excepted (R19). -/
theorem handFlagToOthers_flags (f : Flag) (e r : Port) (s : State) :
    ((handFlagToOthers f e s).attn.get r).flags =
      if r = e then (s.attn.get r).flags else (s.attn.get r).flags ||| flagBit f := by
  cases e <;> cases r <;> simp [handFlagToOthers, allPorts, handFlag_flags]

@[simp] theorem frameErrorAt_frame (p : Port) (c : FrameCause) (s : State) :
    (frameErrorAt p c s).tbu = s.tbu ∧ (frameErrorAt p c s).lease = s.lease ∧ (frameErrorAt p c s).agu = s.agu ∧
    (frameErrorAt p c s).queues = s.queues ∧ (frameErrorAt p c s).strobes = s.strobes ∧
    (frameErrorAt p c s).pru = s.pru ∧ (frameErrorAt p c s).ports = s.ports ∧ (frameErrorAt p c s).spm = s.spm ∧
    (frameErrorAt p c s).draws = s.draws ∧ (frameErrorAt p c s).pending = s.pending := by
  simp [frameErrorAt]

/-- A frame error sets FRAME and the cause at its own port alone (R129). -/
theorem frameErrorAt_attn (p r : Port) (c : FrameCause) (s : State) :
    ((frameErrorAt p c s).attn.get r).flags =
        (if r = p then (s.attn.get r).flags ||| flagBit .frame else (s.attn.get r).flags) ∧
      ((frameErrorAt p c s).attn.get r).cause = (if r = p then c else (s.attn.get r).cause) := by
  simp only [frameErrorAt, followAttention_attn, State.setAttn_attn, PerPort.get_set]
  split
  · next h => subst h; simp
  · simp

@[simp] theorem replaceQueue_frame (p : Port) (q : NoticeQueue) (s : State) :
    (replaceQueue p q s).tbu = s.tbu ∧ (replaceQueue p q s).lease = s.lease ∧ (replaceQueue p q s).agu = s.agu ∧
    (replaceQueue p q s).queues = s.queues.set p q ∧ (replaceQueue p q s).strobes = s.strobes ∧
    (replaceQueue p q s).pru = s.pru ∧ (replaceQueue p q s).ports = s.ports ∧ (replaceQueue p q s).spm = s.spm ∧
    (replaceQueue p q s).draws = s.draws ∧ (replaceQueue p q s).pending = s.pending := by
  simp [replaceQueue]

@[simp] theorem replaceQueue_attn (p r : Port) (q : NoticeQueue) (s : State) :
    ((replaceQueue p q s).attn.get r).flags = (s.attn.get r).flags ∧
    ((replaceQueue p q s).attn.get r).cause = (s.attn.get r).cause ∧
    ((replaceQueue p q s).attn.get r).enables = (s.attn.get r).enables ∧
    ((replaceQueue p q s).attn.get r).mode = (s.attn.get r).mode := by
  simp [replaceQueue]

end Sys2Proof.Machine
end

