-- ==== Sys2Proof/Laws/Store.lean ====
section
/-! SUPPORT. The entry store and its agenda: what each operation on a slot does and leaves. -/

namespace Sys2Proof.Machine

/-! ### Blocks outside the AGU -/

/-- Two states agree in every block but the AGU. -/
def SameButAgu (s t : State) : Prop :=
  t.tbu = s.tbu ∧ t.lease = s.lease ∧ t.queues = s.queues ∧ t.attn = s.attn ∧ t.strobes = s.strobes ∧ t.pru = s.pru ∧
    t.ports = s.ports ∧ t.spm = s.spm ∧ t.draws = s.draws ∧ t.pending = s.pending

theorem SameButAgu.refl (s : State) : SameButAgu s s := by simp [SameButAgu]

theorem SameButAgu.trans {s t u : State} (h : SameButAgu s t) (k : SameButAgu t u) : SameButAgu s u := by
  obtain ⟨h1, h2, h3, h4, h5, h6, h7, h8, h9, h10⟩ := h
  obtain ⟨k1, k2, k3, k4, k5, k6, k7, k8, k9, k10⟩ := k
  exact ⟨k1.trans h1, k2.trans h2, k3.trans h3, k4.trans h4, k5.trans h5, k6.trans h6, k7.trans h7, k8.trans h8,
    k9.trans h9, k10.trans h10⟩

theorem SameButAgu.setAgu (s : State) (x : Agu) : SameButAgu s (s.setAgu x) := by simp [SameButAgu]

/-- A state that agrees in every block but the AGU is the old one with the new AGU. -/
theorem SameButAgu.eq {s t : State} (h : SameButAgu s t) : t = s.setAgu t.agu := by
  obtain ⟨h1, h2, h3, h4, h5, h6, h7, h8, h9, h10⟩ := h
  cases s; cases t
  simp_all [State.setAgu]

/-! ### Slots read through the named updates -/

theorem slot_congr {s t : State} (h : t.agu.store = s.agu.store) (g : Handle) : slot t g = slot s g := by
  simp [slot, h]

@[simp] theorem slot_setTbu (s : State) (x : Tbu) (h : Handle) : slot (s.setTbu x) h = slot s h := rfl
@[simp] theorem slot_setLease (s : State) (x : Option Lease) (h : Handle) : slot (s.setLease x) h = slot s h := rfl
@[simp] theorem slot_setQueue (s : State) (p : Port) (x : NoticeQueue) (h : Handle) :
    slot (s.setQueue p x) h = slot s h := rfl
@[simp] theorem slot_setAttn (s : State) (p : Port) (x : Attn) (h : Handle) : slot (s.setAttn p x) h = slot s h := rfl
@[simp] theorem slot_setStrobe (s : State) (l : Line) (x : StrobeLine) (h : Handle) :
    slot (s.setStrobe l x) h = slot s h := rfl
@[simp] theorem slot_setPru (s : State) (x : Pru) (h : Handle) : slot (s.setPru x) h = slot s h := rfl
@[simp] theorem slot_setPort (s : State) (p : Port) (x : PortCtl) (h : Handle) : slot (s.setPort p x) h = slot s h := rfl
@[simp] theorem slot_setSpm (s : State) (x : Spm) (h : Handle) : slot (s.setSpm x) h = slot s h := rfl

@[simp] theorem slot_followAttention (p : Port) (b : Bool) (s : State) (h : Handle) :
    slot (followAttention p b s) h = slot s h := slot_congr (by simp) h

@[simp] theorem slot_replaceQueue (p : Port) (q : NoticeQueue) (s : State) (h : Handle) :
    slot (replaceQueue p q s) h = slot s h := slot_congr (by simp) h

@[simp] theorem slot_handFlag (f : Flag) (p : Port) (s : State) (h : Handle) :
    slot (handFlag f p s) h = slot s h := slot_congr (by simp) h

theorem ownedBy_congr {s t : State} (h : ∀ g, slot t g = slot s g) (p : Port) : ownedBy t p = ownedBy s p := by
  funext g
  simp [ownedBy, h]

theorem ownedCount_congr {s t : State} (h : ∀ g, slot t g = slot s g) (p : Port) : ownedCount t p = ownedCount s p := by
  simp [ownedCount, ownedBy_congr h]

/-! ### Writing a slot -/

theorem get_set_store (v : Vector (Option Entry) 96) (h g : Handle) (x : Option Entry) :
    (v.set h.val x h.isLt).get g = if g = h then x else v.get g := by
  change (v.set h.val x h.isLt)[g.val] = if g = h then x else v[g.val]
  rw [Vector.getElem_set]
  by_cases e : g = h
  · simp [e]
  · have k : h.val ≠ g.val := fun k => e (Fin.ext k.symm)
    simp [e, k]

@[simp] theorem slot_putSlot (h g : Handle) (x : Option Entry) (s : State) :
    slot (putSlot h x s) g = if g = h then x else slot s g := by
  simp only [slot, putSlot, State.setAgu_agu, get_set_store]

theorem putSlot_same (h : Handle) (x : Option Entry) (s : State) : SameButAgu s (putSlot h x s) :=
  SameButAgu.setAgu _ _

@[simp] theorem putSlot_agu (h : Handle) (x : Option Entry) (s : State) :
    (putSlot h x s).agu.state = s.agu.state ∧ (putSlot h x s).agu.held = s.agu.held := by
  simp [putSlot]

@[simp] theorem putSlot_frame (h : Handle) (x : Option Entry) (s : State) :
    (putSlot h x s).tbu = s.tbu ∧ (putSlot h x s).lease = s.lease ∧ (putSlot h x s).queues = s.queues ∧
    (putSlot h x s).attn = s.attn ∧ (putSlot h x s).strobes = s.strobes ∧ (putSlot h x s).pru = s.pru ∧
    (putSlot h x s).ports = s.ports ∧ (putSlot h x s).spm = s.spm ∧ (putSlot h x s).draws = s.draws ∧
    (putSlot h x s).pending = s.pending := putSlot_same h x s

/-- A handle put into an ordered list joins its members. -/
theorem mem_placeInAgenda (store : Vector (Option Entry) 96) (due : Time) (h g : Handle) (l : List Handle) :
    g ∈ placeInAgenda store due h l ↔ g = h ∨ g ∈ l := by
  induction l with
  | nil => simp [placeInAgenda]
  | cons k l ih =>
    unfold placeInAgenda
    split
    · split
      · simp
      · simp only [List.mem_cons, ih, or_left_comm]
    · simp only [List.mem_cons, ih, or_left_comm]

/-- The members of the agenda after a slot is written: the handle is one while its new record is ARMED, and every other
handle as before (R59). -/
theorem mem_agenda_putSlot (h g : Handle) (x : Option Entry) (s : State) :
    g ∈ (putSlot h x s).agu.agenda ↔
      if g = h then (x.bind dueOf).isSome = true else g ∈ s.agu.agenda := by
  simp only [putSlot, State.setAgu_agu]
  cases hx : x.bind dueOf with
  | none =>
    simp only [List.mem_filter, bne_iff_ne]
    by_cases e : g = h <;> simp [e]
  | some due =>
    simp only [mem_placeInAgenda, List.mem_filter, bne_iff_ne]
    by_cases e : g = h <;> simp [e]

/-! ### The status of an entry -/

theorem setStatus_same (h : Handle) (st : EntryStatus) (s : State) : SameButAgu s (setStatus h st s) := by
  unfold setStatus
  split
  · exact putSlot_same _ _ _
  · exact .refl s

@[simp] theorem slot_setStatus (h g : Handle) (st : EntryStatus) (s : State) :
    slot (setStatus h st s) g = if g = h then (slot s h).map fun e => { e with status := st } else slot s g := by
  unfold setStatus
  cases hs : slot s h with
  | none =>
    by_cases e : g = h
    · subst e; simp [hs]
    · simp [e]
  | some e => simp

@[simp] theorem setStatus_agu (h : Handle) (st : EntryStatus) (s : State) :
    (setStatus h st s).agu.state = s.agu.state ∧ (setStatus h st s).agu.held = s.agu.held := by
  unfold setStatus
  split <;> simp

@[simp] theorem setStatus_frame (h : Handle) (st : EntryStatus) (s : State) :
    (setStatus h st s).tbu = s.tbu ∧ (setStatus h st s).lease = s.lease ∧ (setStatus h st s).queues = s.queues ∧
    (setStatus h st s).attn = s.attn ∧ (setStatus h st s).strobes = s.strobes ∧ (setStatus h st s).pru = s.pru ∧
    (setStatus h st s).ports = s.ports ∧ (setStatus h st s).spm = s.spm ∧ (setStatus h st s).draws = s.draws ∧
    (setStatus h st s).pending = s.pending := setStatus_same h st s

/-! ### Missed accumulator and pending parts -/

theorem updateParts_same (h : Handle) (f : EntryParts → EntryParts) (s : State) : SameButAgu s (updateParts h f s) := by
  unfold updateParts
  split
  · exact SameButAgu.setAgu _ _
  · exact .refl s

/-- The record of an entry with other parts (R29). -/
def Entry.withParts (e : Entry) (x : EntryParts) : Entry :=
  { e with missed := x.missed, summary := x.summary, terminal := x.terminal }

/-- The parts of an entry. -/
def Entry.parts (e : Entry) : EntryParts := ⟨e.missed, e.summary, e.terminal⟩

@[simp] theorem slot_updateParts (h g : Handle) (f : EntryParts → EntryParts) (s : State) :
    slot (updateParts h f s) g = if g = h then (slot s h).map fun e => e.withParts (f e.parts) else slot s g := by
  unfold updateParts
  cases hs : slot s h with
  | none =>
    by_cases e : g = h
    · subst e; simp [hs]
    · simp [e]
  | some e =>
    simp only [slot, State.setAgu_agu, get_set_store, Option.map_some]
    rfl

@[simp] theorem updateParts_agu (h : Handle) (f : EntryParts → EntryParts) (s : State) :
    (updateParts h f s).agu.state = s.agu.state ∧ (updateParts h f s).agu.held = s.agu.held ∧
    (updateParts h f s).agu.agenda = s.agu.agenda := by
  unfold updateParts
  split <;> simp

@[simp] theorem updateParts_frame (h : Handle) (f : EntryParts → EntryParts) (s : State) :
    (updateParts h f s).tbu = s.tbu ∧ (updateParts h f s).lease = s.lease ∧
    (updateParts h f s).queues = s.queues ∧ (updateParts h f s).attn = s.attn ∧
    (updateParts h f s).strobes = s.strobes ∧ (updateParts h f s).pru = s.pru ∧
    (updateParts h f s).ports = s.ports ∧ (updateParts h f s).spm = s.spm ∧
    (updateParts h f s).draws = s.draws ∧ (updateParts h f s).pending = s.pending := updateParts_same h f s

@[simp] theorem Entry.withParts_keeps (e : Entry) (x : EntryParts) :
    (e.withParts x).owner = e.owner ∧ (e.withParts x).tag = e.tag ∧ (e.withParts x).schedule = e.schedule ∧
    (e.withParts x).policy = e.policy ∧ (e.withParts x).notify = e.notify ∧ (e.withParts x).strobe = e.strobe ∧
    (e.withParts x).persist = e.persist ∧ (e.withParts x).status = e.status ∧ (e.withParts x).missed = x.missed ∧
    (e.withParts x).summary = x.summary ∧ (e.withParts x).terminal = x.terminal := by
  simp [Entry.withParts]

/-! ### Release -/

theorem releaseIfDone_same (h : Handle) (s : State) : SameButAgu s (releaseIfDone h s) := by
  unfold releaseIfDone
  split
  · split
    · exact putSlot_same _ _ _
    · exact .refl s
  · exact .refl s

/-- A release frees its slot if the entry is ENDED and has no reference, and touches no other slot (R48). -/
@[simp] theorem slot_releaseIfDone (h g : Handle) (s : State) :
    slot (releaseIfDone h s) g =
      if g = h then (slot s h).filter fun e => !(isEnded e && !hasReference s h e) else slot s g := by
  unfold releaseIfDone
  cases hs : slot s h with
  | none =>
    by_cases e : g = h
    · subst e; simp [hs]
    · simp [e]
  | some e =>
    cases k : isEnded e && !hasReference s h e with
    | true => simp [k, Option.filter]
    | false =>
      by_cases j : g = h
      · subst j; simp [k, hs, Option.filter]
      · simp [k, j]

@[simp] theorem releaseIfDone_agu (h : Handle) (s : State) :
    (releaseIfDone h s).agu.state = s.agu.state ∧ (releaseIfDone h s).agu.held = s.agu.held := by
  unfold releaseIfDone
  split
  · split <;> simp
  · simp

@[simp] theorem releaseIfDone_frame (h : Handle) (s : State) :
    (releaseIfDone h s).tbu = s.tbu ∧ (releaseIfDone h s).lease = s.lease ∧
    (releaseIfDone h s).queues = s.queues ∧ (releaseIfDone h s).attn = s.attn ∧
    (releaseIfDone h s).strobes = s.strobes ∧ (releaseIfDone h s).pru = s.pru ∧
    (releaseIfDone h s).ports = s.ports ∧ (releaseIfDone h s).spm = s.spm ∧
    (releaseIfDone h s).draws = s.draws ∧ (releaseIfDone h s).pending = s.pending := releaseIfDone_same h s

/-! ### Runs over all handles -/

/-- A property that each visit keeps is kept by a run over a list of handles. -/
theorem foldl_keeps {α : Type} {P : State → Prop} (f : State → α → State) (l : List α) (s : State)
    (step : ∀ s x, P s → P (f s x)) (h : P s) : P (l.foldl f s) := by
  induction l generalizing s with
  | nil => exact h
  | cons x l ih => exact ih _ (step s x h)

theorem releaseEnded_same (p : Port) (s : State) : SameButAgu s (releaseEnded p s) := by
  unfold releaseEnded
  refine foldl_keeps (P := fun t => SameButAgu s t) _ _ _ ?_ (.refl s)
  intro t h ht
  split
  · exact ht.trans (releaseIfDone_same h t)
  · exact ht

@[simp] theorem releaseEnded_frame (p : Port) (s : State) :
    (releaseEnded p s).tbu = s.tbu ∧ (releaseEnded p s).lease = s.lease ∧
    (releaseEnded p s).queues = s.queues ∧ (releaseEnded p s).attn = s.attn ∧
    (releaseEnded p s).strobes = s.strobes ∧ (releaseEnded p s).pru = s.pru ∧
    (releaseEnded p s).ports = s.ports ∧ (releaseEnded p s).spm = s.spm ∧
    (releaseEnded p s).draws = s.draws ∧ (releaseEnded p s).pending = s.pending := releaseEnded_same p s

@[simp] theorem releaseEnded_agu (p : Port) (s : State) :
    (releaseEnded p s).agu.state = s.agu.state ∧ (releaseEnded p s).agu.held = s.agu.held := by
  unfold releaseEnded
  refine foldl_keeps (P := fun t => t.agu.state = s.agu.state ∧ t.agu.held = s.agu.held) _ _ _ ?_ ⟨rfl, rfl⟩
  intro t h ht
  split
  · simpa using ht
  · exact ht

end Sys2Proof.Machine
end

