-- ==== Sys2Proof/Laws/Ports.lean ====
section
/-! SUPPORT. The shared operations over the port controllers, the walk state, the lease and the strobe lines: what each
does and leaves. -/

namespace Sys2Proof.Machine

/-! ### Blocks outside the Port Controllers -/

/-- An operation that sets one port's controller leaves every other block. -/
def SameButPorts (s t : State) : Prop :=
  t.tbu = s.tbu ∧ t.lease = s.lease ∧ t.agu = s.agu ∧ t.queues = s.queues ∧ t.attn = s.attn ∧ t.strobes = s.strobes ∧
    t.pru = s.pru ∧ t.spm = s.spm ∧ t.draws = s.draws ∧ t.pending = s.pending

theorem SameButPorts.refl (s : State) : SameButPorts s s := by simp [SameButPorts]

theorem SameButPorts.setPort (s : State) (p : Port) (x : PortCtl) : SameButPorts s (s.setPort p x) := by
  simp [SameButPorts]

theorem complete_same (p : Port) (r : Result) (out : List Byte) (s : State) : SameButPorts s (complete p r out s) := by
  unfold complete
  split
  · exact .setPort _ _ _
  · exact .refl s

@[simp] theorem complete_frame (p : Port) (r : Result) (out : List Byte) (s : State) :
    (complete p r out s).tbu = s.tbu ∧ (complete p r out s).lease = s.lease ∧ (complete p r out s).agu = s.agu ∧
    (complete p r out s).queues = s.queues ∧ (complete p r out s).attn = s.attn ∧
    (complete p r out s).strobes = s.strobes ∧ (complete p r out s).pru = s.pru ∧
    (complete p r out s).spm = s.spm ∧ (complete p r out s).draws = s.draws ∧
    (complete p r out s).pending = s.pending := complete_same p r out s

/-- A completion makes a WORKING port DONE with the response, and reaches no other port (R179). -/
theorem complete_ports (p q : Port) (r : Result) (out : List Byte) (s : State) :
    (complete p r out s).ports.get q =
      match (s.ports.get p).state with
      | .working c =>
        if q = p then { s.ports.get p with state := .done ⟨c.code, c.seq, r, out⟩ } else s.ports.get q
      | _ => s.ports.get q := by
  unfold complete
  split <;> simp_all [PerPort.get_set]

@[simp] theorem takeCommand_frame (p : Port) (code seq : Byte) (payload : List Byte) (s : State) :
    (takeCommand p code seq payload s).tbu = s.tbu ∧ (takeCommand p code seq payload s).lease = s.lease ∧
    (takeCommand p code seq payload s).agu = s.agu ∧ (takeCommand p code seq payload s).queues = s.queues ∧
    (takeCommand p code seq payload s).attn = s.attn ∧ (takeCommand p code seq payload s).strobes = s.strobes ∧
    (takeCommand p code seq payload s).pru = s.pru ∧ (takeCommand p code seq payload s).spm = s.spm ∧
    (takeCommand p code seq payload s).draws = s.draws ∧ (takeCommand p code seq payload s).pending = s.pending ∧
    (takeCommand p code seq payload s).ports =
      s.ports.set p { s.ports.get p with state := .working ⟨code, seq, payload, false⟩ } := by
  simp [takeCommand]

@[simp] theorem markHeld_frame (p : Port) (b : Bool) (s : State) :
    (markHeld p b s).tbu = s.tbu ∧ (markHeld p b s).lease = s.lease ∧ (markHeld p b s).agu = s.agu ∧
    (markHeld p b s).queues = s.queues ∧ (markHeld p b s).attn = s.attn ∧ (markHeld p b s).strobes = s.strobes ∧
    (markHeld p b s).pru = s.pru ∧ (markHeld p b s).spm = s.spm ∧ (markHeld p b s).draws = s.draws ∧
    (markHeld p b s).pending = s.pending := by
  unfold markHeld
  split <;> simp

theorem markHeld_ports (p q : Port) (b : Bool) (s : State) :
    (markHeld p b s).ports.get q =
      match (s.ports.get p).state with
      | .working c => if q = p then { s.ports.get p with state := .working { c with held := b } } else s.ports.get q
      | _ => s.ports.get q := by
  unfold markHeld
  split <;> simp_all [PerPort.get_set]

@[simp] theorem setPortState_frame (p : Port) (st : PortState) (s : State) :
    (setPortState p st s).tbu = s.tbu ∧ (setPortState p st s).lease = s.lease ∧ (setPortState p st s).agu = s.agu ∧
    (setPortState p st s).queues = s.queues ∧ (setPortState p st s).attn = s.attn ∧
    (setPortState p st s).strobes = s.strobes ∧ (setPortState p st s).pru = s.pru ∧
    (setPortState p st s).spm = s.spm ∧ (setPortState p st s).draws = s.draws ∧
    (setPortState p st s).pending = s.pending ∧
    (setPortState p st s).ports = s.ports.set p { s.ports.get p with state := st } := by
  simp [setPortState]

/-- A receiver that is RECEIVING becomes DISCARDING; any other stays (R168, R184). -/
def discarded (r : Receiver) : Receiver :=
  match r with
  | .receiving _ _ _ => .discarding
  | .waiting => .waiting
  | .discarding => .discarding

@[simp] theorem discardTransaction_frame (p : Port) (s : State) :
    (discardTransaction p s).tbu = s.tbu ∧ (discardTransaction p s).lease = s.lease ∧
    (discardTransaction p s).agu = s.agu ∧ (discardTransaction p s).queues = s.queues ∧
    (discardTransaction p s).attn = s.attn ∧ (discardTransaction p s).strobes = s.strobes ∧
    (discardTransaction p s).pru = s.pru ∧ (discardTransaction p s).spm = s.spm ∧
    (discardTransaction p s).draws = s.draws ∧ (discardTransaction p s).pending = s.pending ∧
    (discardTransaction p s).ports =
      s.ports.set p { s.ports.get p with receiver := discarded (s.ports.get p).receiver } := by
  unfold discardTransaction discarded
  split
  · next h => simp [h]
  · next h =>
    cases hr : (s.ports.get p).receiver with
    | receiving l sn r => exact absurd hr (h l sn r)
    | waiting =>
      have : ({ s.ports.get p with receiver := .waiting } : PortCtl) = s.ports.get p := by rw [← hr]
      simp [this]
    | discarding =>
      have : ({ s.ports.get p with receiver := .discarding } : PortCtl) = s.ports.get p := by rw [← hr]
      simp [this]

/-! ### The held-command list and the walk state -/

@[simp] theorem setHeld_frame (p : Port) (c : Option AgendaCommand) (s : State) :
    (setHeld p c s).tbu = s.tbu ∧ (setHeld p c s).lease = s.lease ∧ (setHeld p c s).queues = s.queues ∧
    (setHeld p c s).attn = s.attn ∧ (setHeld p c s).strobes = s.strobes ∧ (setHeld p c s).pru = s.pru ∧
    (setHeld p c s).ports = s.ports ∧ (setHeld p c s).spm = s.spm ∧ (setHeld p c s).draws = s.draws ∧
    (setHeld p c s).pending = s.pending ∧ (setHeld p c s).agu.store = s.agu.store ∧
    (setHeld p c s).agu.agenda = s.agu.agenda ∧ (setHeld p c s).agu.state = s.agu.state ∧
    (setHeld p c s).agu.held = s.agu.held.set p c := by
  simp [setHeld]

@[simp] theorem slot_setHeld (p : Port) (c : Option AgendaCommand) (s : State) (h : Handle) :
    slot (setHeld p c s) h = slot s h := rfl

@[simp] theorem setAgendaState_frame (st : AgendaState) (s : State) :
    (setAgendaState st s).tbu = s.tbu ∧ (setAgendaState st s).lease = s.lease ∧
    (setAgendaState st s).queues = s.queues ∧ (setAgendaState st s).attn = s.attn ∧
    (setAgendaState st s).strobes = s.strobes ∧ (setAgendaState st s).pru = s.pru ∧
    (setAgendaState st s).ports = s.ports ∧ (setAgendaState st s).spm = s.spm ∧
    (setAgendaState st s).draws = s.draws ∧ (setAgendaState st s).pending = s.pending ∧
    (setAgendaState st s).agu.store = s.agu.store ∧ (setAgendaState st s).agu.agenda = s.agu.agenda ∧
    (setAgendaState st s).agu.state = st ∧ (setAgendaState st s).agu.held = s.agu.held := by
  simp [setAgendaState]

@[simp] theorem slot_setAgendaState (st : AgendaState) (s : State) (h : Handle) :
    slot (setAgendaState st s) h = slot s h := rfl

theorem walkOf_congr {s t : State} (h : t.agu.state = s.agu.state) : walkOf t = walkOf s := by simp [walkOf, h]

theorem isRunning_congr {s t : State} (h : t.agu.state = s.agu.state) : isRunning t = isRunning s := by
  simp [isRunning, walkOf_congr h]

@[simp] theorem walkOf_setAgendaState (st : AgendaState) (s : State) :
    walkOf (setAgendaState st s) =
      match st with
      | .running => none
      | .realigning w => some w := by
  cases st <;> simp [walkOf]

/-- A walk whose response is no longer wanted by the port named, or by none (R80). -/
def unwanted (p : Option Port) (w : Walk) : Walk :=
  if p = none ∨ p = some w.port then { w with wanted := false } else w

@[simp] theorem dropWantedResponse_frame (p : Option Port) (s : State) :
    (dropWantedResponse p s).tbu = s.tbu ∧ (dropWantedResponse p s).lease = s.lease ∧
    (dropWantedResponse p s).queues = s.queues ∧ (dropWantedResponse p s).attn = s.attn ∧
    (dropWantedResponse p s).strobes = s.strobes ∧ (dropWantedResponse p s).pru = s.pru ∧
    (dropWantedResponse p s).ports = s.ports ∧ (dropWantedResponse p s).spm = s.spm ∧
    (dropWantedResponse p s).draws = s.draws ∧ (dropWantedResponse p s).pending = s.pending ∧
    (dropWantedResponse p s).agu.store = s.agu.store ∧ (dropWantedResponse p s).agu.agenda = s.agu.agenda ∧
    (dropWantedResponse p s).agu.held = s.agu.held := by
  unfold dropWantedResponse
  split
  · split <;> simp
  · simp

@[simp] theorem slot_dropWantedResponse (p : Option Port) (s : State) (h : Handle) :
    slot (dropWantedResponse p s) h = slot s h := slot_congr (by simp) h

@[simp] theorem walkOf_dropWantedResponse (p : Option Port) (s : State) :
    walkOf (dropWantedResponse p s) = (walkOf s).map (unwanted p) := by
  unfold dropWantedResponse
  split
  · next w h =>
    split
    · next k => simp [h, unwanted, k]
    · next k => simp [h, unwanted, k]
  · next h => simp [h]

/-! ### The lease -/

@[simp] theorem isHolder_eq_true (s : State) (p : Port) : isHolder s p = true ↔ ∃ l, s.lease = some l ∧ l.holder = p := by
  cases h : s.lease <;> simp [isHolder, h]

theorem isHolder_congr {s t : State} (h : t.lease = s.lease) (p : Port) : isHolder t p = isHolder s p := by
  simp [isHolder, h]

@[simp] theorem loseLease_frame (s : State) :
    (loseLease s).tbu = s.tbu ∧ (loseLease s).lease = none ∧ (loseLease s).agu = s.agu ∧
    (loseLease s).queues = s.queues ∧ (loseLease s).strobes = s.strobes ∧ (loseLease s).pru = s.pru ∧
    (loseLease s).ports = s.ports ∧ (loseLease s).spm = s.spm ∧ (loseLease s).draws = s.draws ∧
    (loseLease s).pending = s.pending := by
  unfold loseLease
  split
  · simp
  · next h => simp [h]

/-- Losing the lease sets LEASE_LOST on the former holder and no other flag (R118, R120). -/
theorem loseLease_flags (r : Port) (s : State) :
    ((loseLease s).attn.get r).flags =
      (s.attn.get r).flags ||| (if isHolder s r = true then flagBit .leaseLost else 0) := by
  unfold loseLease
  cases h : s.lease with
  | none => simp [isHolder, h]
  | some l =>
    simp only [handFlag_flags, State.setLease_attn, isHolder, h, Option.any_some, beq_iff_eq]
    by_cases e : r = l.holder
    · simp [e]
    · simp [e, Ne.symm e]

@[simp] theorem loseLease_config (r : Port) (s : State) :
    ((loseLease s).attn.get r).cause = (s.attn.get r).cause ∧
    ((loseLease s).attn.get r).enables = (s.attn.get r).enables ∧
    ((loseLease s).attn.get r).mode = (s.attn.get r).mode := by
  unfold loseLease
  split <;> simp

/-! ### Pulse requests -/

@[simp] theorem requestPulse_frame (a : Option StrobeAction) (p : Port) (s : State) :
    (requestPulse a p s).1.tbu = s.tbu ∧ (requestPulse a p s).1.lease = s.lease ∧
    (requestPulse a p s).1.agu = s.agu ∧ (requestPulse a p s).1.queues = s.queues ∧
    (requestPulse a p s).1.attn = s.attn ∧ (requestPulse a p s).1.pru = s.pru ∧
    (requestPulse a p s).1.ports = s.ports ∧ (requestPulse a p s).1.spm = s.spm ∧
    (requestPulse a p s).1.draws = s.draws ∧ (requestPulse a p s).1.pending = s.pending := by
  unfold requestPulse
  split
  · simp
  · split
    · dsimp only
      split <;> simp
    · simp

@[simp] theorem slot_requestPulse (a : Option StrobeAction) (p : Port) (s : State) (h : Handle) :
    slot (requestPulse a p s).1 h = slot s h := slot_congr (by simp) h

/-- A pulse request moves at most its own line, which then pulses, and only where it is driven (R142). -/
theorem requestPulse_strobes (a : Option StrobeAction) (p : Port) (s : State) (l : Line) :
    (requestPulse a p s).1.strobes.get l = s.strobes.get l ∨
      inMain s = true ∧ (s.pru.strobeMap.get l).owner = some p ∧
        ∃ x, a = some x ∧ x.line = l ∧
          ((requestPulse a p s).1.strobes.get l = .pulsing (s.tbu.mono + x.width.setWidth 48) ∨
            ∃ e, s.strobes.get l = .pulsing e ∧ (requestPulse a p s).1.strobes.get l =
              .pulsing (laterEnd s.tbu.mono e (s.tbu.mono + x.width.setWidth 48))) := by
  unfold requestPulse
  split
  · exact .inl rfl
  · next x =>
    split
    · next h =>
      by_cases e : l = x.line
      · subst e
        refine .inr ⟨h.2, h.1, x, rfl, rfl, ?_⟩
        dsimp only
        split
        · exact .inl (by simp)
        · next y hy => exact .inr ⟨y, hy, by simp⟩
      · refine .inl ?_
        dsimp only
        split <;> simp [e]
    · exact .inl rfl

end Sys2Proof.Machine
end

