-- ==== Sys2Proof/Laws/Notices.lean ====
section
/-! SUPPORT. The Notice Unit's operations: what each does to the queue of its port and to the entries, and what the work of
the Agenda Unit and the Notice Unit leaves of every other block. -/

namespace Sys2Proof.Machine

/-! ### What agenda and notice work leaves -/

/-- The work of the AGU and the NTU reaches the entry store, the agenda, the queues, the strobe lines and, of the ASU of
each port, the attention line and its pulse. Everything else is as it was. -/
def AgendaWork (s t : State) : Prop :=
  t.tbu = s.tbu ∧ t.lease = s.lease ∧ t.pru = s.pru ∧ t.ports = s.ports ∧ t.spm = s.spm ∧ t.draws = s.draws ∧
    t.pending = s.pending ∧ t.agu.state = s.agu.state ∧ t.agu.held = s.agu.held ∧
    ∀ r, (t.attn.get r).flags = (s.attn.get r).flags ∧ (t.attn.get r).cause = (s.attn.get r).cause ∧
      (t.attn.get r).enables = (s.attn.get r).enables ∧ (t.attn.get r).mode = (s.attn.get r).mode

theorem AgendaWork.refl (s : State) : AgendaWork s s := by simp [AgendaWork]

theorem AgendaWork.trans {s t u : State} (h : AgendaWork s t) (k : AgendaWork t u) : AgendaWork s u := by
  obtain ⟨h1, h2, h3, h4, h5, h6, h7, h8, h9, h10⟩ := h
  obtain ⟨k1, k2, k3, k4, k5, k6, k7, k8, k9, k10⟩ := k
  refine ⟨k1.trans h1, k2.trans h2, k3.trans h3, k4.trans h4, k5.trans h5, k6.trans h6, k7.trans h7, k8.trans h8,
    k9.trans h9, fun r => ?_⟩
  obtain ⟨a, b, c, d⟩ := h10 r
  obtain ⟨a', b', c', d'⟩ := k10 r
  exact ⟨a'.trans a, b'.trans b, c'.trans c, d'.trans d⟩

/-- A run of agenda work over a list is agenda work. -/
theorem AgendaWork.foldl {α : Type} (f : State → α → State) (l : List α) (s : State)
    (step : ∀ s x, AgendaWork s (f s x)) : AgendaWork s (l.foldl f s) :=
  foldl_keeps (P := fun t => AgendaWork s t) f l s (fun t x h => h.trans (step t x)) (.refl s)

theorem putSlot_work (h : Handle) (x : Option Entry) (s : State) : AgendaWork s (putSlot h x s) := by
  simp [AgendaWork]

theorem setStatus_work (h : Handle) (st : EntryStatus) (s : State) : AgendaWork s (setStatus h st s) := by
  simp [AgendaWork]

theorem updateParts_work (h : Handle) (f : EntryParts → EntryParts) (s : State) : AgendaWork s (updateParts h f s) := by
  simp [AgendaWork]

theorem releaseIfDone_work (h : Handle) (s : State) : AgendaWork s (releaseIfDone h s) := by
  simp [AgendaWork]

theorem releaseEnded_work (p : Port) (s : State) : AgendaWork s (releaseEnded p s) := by
  simp [AgendaWork]

theorem replaceQueue_work (p : Port) (q : NoticeQueue) (s : State) : AgendaWork s (replaceQueue p q s) := by
  simp [AgendaWork]

theorem requestPulse_work (a : Option StrobeAction) (p : Port) (s : State) : AgendaWork s (requestPulse a p s).1 := by
  simp [AgendaWork]

/-! ### Combining -/

/-- Combining keeps the reason and the first value of the earlier record and takes the last value of the later (R91). -/
@[simp] theorem combine_ends (e l : Report) :
    (combine e l).reason = e.reason ∧ (combine e l).first = e.first ∧ (combine e l).last = l.last := by
  simp [combine]

/-- Combined fires are the sum, stopped at 65535 (R91). -/
theorem combine_fires (e l : Report) : (combine e l).fires.toNat = min (e.fires.toNat + l.fires.toNat) 65535 := by
  simp only [combine, cappedSum, BitVec.toNat_ofNat]
  omega

theorem combineAll_reason {l : List Report} {r : Report} (h : combineAll l = some r) (k : ∀ x ∈ l, x.reason = .fired) :
    r.reason = .fired := by
  cases l with
  | nil => simp [combineAll] at h
  | cons x l =>
    simp only [combineAll, Option.some.injEq] at h
    subst h
    have hx : x.reason = .fired := k x (by simp)
    clear k
    induction l generalizing x with
    | nil => exact hx
    | cons y l ih => exact ih (combine x y) (by simpa using hx)

/-! ### Appending and taking -/

/-- The notice that an append puts at the back (R88, R89). -/
def newNotice (q : NoticeQueue) (h : Handle) (tag : Half) (r : Report) : Notice := ⟨q.nextSeq, h, tag, r, false⟩

theorem appendNotice_work (p : Port) (h : Handle) (tag : Half) (r : Report) (s : State) :
    AgendaWork s (appendNotice p h tag r s) := replaceQueue_work _ _ _

@[simp] theorem appendNotice_frame (p : Port) (h : Handle) (tag : Half) (r : Report) (s : State) :
    (appendNotice p h tag r s).agu = s.agu ∧ (appendNotice p h tag r s).strobes = s.strobes ∧
    (appendNotice p h tag r s).queues =
      s.queues.set p
        ⟨(s.queues.get p).notices ++ [newNotice (s.queues.get p) h tag r], (s.queues.get p).nextSeq + 1⟩ := by
  simp [appendNotice, newNotice]

@[simp] theorem slot_appendNotice (p : Port) (h : Handle) (tag : Half) (r : Report) (s : State) (g : Handle) :
    slot (appendNotice p h tag r s) g = slot s g := slot_congr (by simp) g

theorem takeOccurrence_work (p : Port) (h : Handle) (tag : Half) (r : Report) (s : State) :
    AgendaWork s (takeOccurrence p h tag r s) := by
  unfold takeOccurrence
  dsimp only
  split
  · exact replaceQueue_work _ _ _
  · split
    · exact appendNotice_work _ _ _ _ _
    · exact updateParts_work _ _ _

/-- Taking an occurrence moves no strobe line, no agenda place and no slot but its own, whose record keeps all but the
pending summary (R92). -/
theorem takeOccurrence_frame (p : Port) (h : Handle) (tag : Half) (r : Report) (s : State) :
    (takeOccurrence p h tag r s).strobes = s.strobes ∧ (takeOccurrence p h tag r s).agu.agenda = s.agu.agenda ∧
    (∀ q, q ≠ p → (takeOccurrence p h tag r s).queues.get q = s.queues.get q) ∧
    (∀ g, g ≠ h → slot (takeOccurrence p h tag r s) g = slot s g) ∧
    ∃ x : Entry → Option Report, slot (takeOccurrence p h tag r s) h = (slot s h).map fun e => { e with summary := x e } := by
  unfold takeOccurrence
  dsimp only
  split
  · refine ⟨by simp, by simp, fun q hq => by simp [hq], by simp, fun e => e.summary, ?_⟩
    cases hs : slot s h <;> simp [*]
  · split
    · refine ⟨by simp, by simp, fun q hq => by simp [hq], by simp, fun e => e.summary, ?_⟩
      cases hs : slot s h <;> simp [*]
    · refine ⟨by simp, by simp, fun q hq => by simp, fun g hg => by simp [hg],
        fun e => combineAll (e.summary.toList ++ [r]), ?_⟩
      cases hs : slot s h <;> simp [hs, Entry.withParts, Entry.parts]

theorem takeTerminal_work (p : Port) (h : Handle) (tag : Half) (r : Report) (s : State) :
    AgendaWork s (takeTerminal p h tag r s) := by
  unfold takeTerminal
  split
  · exact appendNotice_work _ _ _ _ _
  · exact updateParts_work _ _ _

/-- Taking a terminal report moves no strobe line, no agenda place and no slot but its own, whose record keeps all but the
terminal pending (R93). -/
theorem takeTerminal_frame (p : Port) (h : Handle) (tag : Half) (r : Report) (s : State) :
    (takeTerminal p h tag r s).strobes = s.strobes ∧ (takeTerminal p h tag r s).agu.agenda = s.agu.agenda ∧
    (∀ q, q ≠ p → (takeTerminal p h tag r s).queues.get q = s.queues.get q) ∧
    (∀ g, g ≠ h → slot (takeTerminal p h tag r s) g = slot s g) ∧
    slot (takeTerminal p h tag r s) h =
      (slot s h).map fun e => { e with terminal := if hasRoom s p = true then e.terminal else some r } := by
  unfold takeTerminal
  split
  · next k =>
    refine ⟨by simp, by simp, fun q hq => by simp [hq], by simp, ?_⟩
    cases hs : slot s h <;> simp [*]
  · next k =>
    refine ⟨by simp, by simp, fun q hq => by simp, fun g hg => by simp [hg], ?_⟩
    cases hs : slot s h <;> simp [hs, Entry.withParts, Entry.parts]

/-! ### Draining -/

theorem drainSummary_work (p : Port) (h : Handle) (s : State) : AgendaWork s (drainSummary p h s) := by
  unfold drainSummary
  split
  · split
    · split
      · exact (appendNotice_work _ _ _ _ _).trans (updateParts_work _ _ _)
      · exact .refl s
    · exact .refl s
  · exact .refl s

theorem drainTerminal_work (p : Port) (h : Handle) (s : State) : AgendaWork s (drainTerminal p h s) := by
  unfold drainTerminal
  split
  · split
    · split
      · exact (appendNotice_work _ _ _ _ _).trans (updateParts_work _ _ _)
      · exact .refl s
    · exact .refl s
  · exact .refl s

theorem drain_work (p : Port) (s : State) : AgendaWork s (drain p s) := by
  unfold drain
  refine .foldl _ _ _ fun t h => ?_
  split
  · exact (drainSummary_work p h t).trans (drainTerminal_work p h _)
  · exact .refl t

theorem mergeBack_work (p : Port) (queue : List Notice) (s : State) : AgendaWork s (mergeBack p queue s) := by
  unfold mergeBack
  refine .foldl _ _ _ fun t h => ?_
  split
  · exact updateParts_work _ _ _
  · exact .refl t

end Sys2Proof.Machine
end

