-- ==== Sys2Proof/Laws/Agenda.lean ====
section
/-! SUPPORT. The loops of the Agenda Unit and the hand-over to the Notice Unit in the terms of Safety.lean. -/

namespace Sys2Proof.Machine

/-- An ASU state has the setup of itself. -/
@[simp] theorem sameSetup.refl (a : Attn) : sameSetup a a := ⟨rfl, rfl, rfl, rfl⟩

/-- The setup is kept through two events if it is kept by each. -/
theorem sameSetup.trans {a b c : Attn} (h : sameSetup a b) (k : sameSetup b c) : sameSetup a c :=
  ⟨h.1.trans k.1, h.2.1.trans k.2.1, h.2.2.1.trans k.2.2.1, h.2.2.2.trans k.2.2.2⟩

/-- The flags that a step hands over to a port reach no other block (R19, R127). -/
theorem stepFlagged_frame (p r : Port) (s : State) :
    (stepFlagged p r s).tbu = s.tbu ∧ (stepFlagged p r s).lease = s.lease ∧ (stepFlagged p r s).agu = s.agu ∧
      (stepFlagged p r s).queues = s.queues ∧ (stepFlagged p r s).strobes = s.strobes ∧
      (stepFlagged p r s).pru = s.pru ∧ (stepFlagged p r s).ports = s.ports ∧ (stepFlagged p r s).spm = s.spm ∧
      (stepFlagged p r s).draws = s.draws ∧ (stepFlagged p r s).pending = s.pending := by
  unfold stepFlagged
  split <;> split <;> simp

/-- A comparison that leaves no due head has fired the due entries in agenda order (R60). -/
theorem compareLoop_firedThrough (v : Time) (n : Nat) (s : State) (h : dueHead v (compareLoop v n s) = none) :
    FiredThrough v s (compareLoop v n s) := by
  induction n generalizing s with
  | zero => exact .finished s h
  | succ n ih =>
    unfold compareLoop at h ⊢
    split at h
    · next g hg => exact .fires s _ g hg (ih _ h)
    · exact .finished s h

/-- The held commands taken port by port (R82, R83). -/
theorem takeHeld_heldTaken (ports : List Port) (s : State) : HeldTaken ports s (ports.foldl takeHeld s) := by
  induction ports generalizing s with
  | nil => exact .finished s
  | cons p rest ih =>
    simp only [List.foldl_cons]
    by_cases hr : isRunning s = true
    · cases hc : s.agu.held.get p with
      | none =>
        have e : takeHeld s p = s := by simp [takeHeld, hr, hc]
        rw [e]; exact .passedOver p rest s _ hr hc (ih s)
      | some c =>
        have e : takeHeld s p = runAgendaCommand p c (markHeld p false (setHeld p none s)) := by
          simp [takeHeld, hr, hc]
        rw [e]; exact .taken p rest c s _ hr hc (ih _)
    · have hr : isRunning s = false := by simpa using hr
      have e : ∀ l : List Port, l.foldl takeHeld s = s := by
        intro l
        induction l with
        | nil => rfl
        | cons q l il => simp [takeHeld, hr, il]
      have e' : takeHeld s p = s := by simp [takeHeld, hr]
      rw [e', e]
      exact .walks _ s hr

/-- What the NTU makes of a firing occurrence of an allocated slot (R92). -/
theorem takeOccurrence_taken {p : Port} {h : Handle} {tag : Half} {r : Report} {s : State} {e : Entry}
    (he : slot s h = some e) :
    (takeOccurrence p h tag r s).queues =
        s.queues.set p (occurrenceTaken h tag r (s.queues.get p) e.summary).1 ∧
      slot (takeOccurrence p h tag r s) h =
        some { e with summary := (occurrenceTaken h tag r (s.queues.get p) e.summary).2 } := by
  have hopen : ((s.queues.get p).notices.any (isOpenFor h) = true) ↔
      ∃ n ∈ (s.queues.get p).notices, n.handle = h ∧ n.delivered = false ∧ n.report.reason = .fired := by
    simp [isOpenFor, and_assoc]
  have hone : ∀ n : Notice, isOpenFor h n = true ↔ n.handle = h ∧ n.delivered = false ∧ n.report.reason = .fired := by
    simp [isOpenFor, and_assoc]
  unfold takeOccurrence occurrenceTaken
  simp only [hopen, hone]
  split
  · simp [he]
  · by_cases k' : (s.queues.get p).notices.length < 16
    · have k : hasRoom s p = true := decide_eq_true k'
      simp [k, k', he, newNotice]
    · have k : hasRoom s p = false := decide_eq_false k'
      simp only [k, k', if_false, Bool.false_eq_true]
      constructor
      · cases p <;> simp [PerPort.get, PerPort.set]
      · cases hs : e.summary <;> simp [he, hs, Entry.withParts, Entry.parts, combineAll]

/-- What the NTU makes of a terminal report of an allocated slot (R93). -/
theorem takeTerminal_taken {p : Port} {h : Handle} {tag : Half} {r : Report} {s : State} {e : Entry}
    (he : slot s h = some e) :
    (takeTerminal p h tag r s).queues =
        s.queues.set p (terminalTaken h tag r (s.queues.get p) e.terminal).1 ∧
      slot (takeTerminal p h tag r s) h =
        some { e with terminal := (terminalTaken h tag r (s.queues.get p) e.terminal).2 } := by
  unfold takeTerminal terminalTaken
  by_cases k' : (s.queues.get p).notices.length < 16
  · have k : hasRoom s p = true := decide_eq_true k'
    simp [k, k', he, newNotice]
  · have k : hasRoom s p = false := decide_eq_false k'
    simp only [k, k', if_false, Bool.false_eq_true]
    constructor
    · cases p <;> simp [PerPort.get, PerPort.set]
    · simp [he, Entry.withParts, Entry.parts]

end Sys2Proof.Machine
end

