-- ==== Sys2Proof/Laws/Firing.lean ====
section
/-! SUPPORT. Firings, visits and the end of the walk: what each leaves of the blocks outside the AGU and the NTU. -/

namespace Sys2Proof.Machine

/-! ### Endings and advances -/

theorem endEntry_work (h : Handle) (c : EndCause) (s : State) : AgendaWork s (endEntry h c s) := setStatus_work _ _ _

theorem exhaust_work (h : Handle) (v : Time) (s : State) : AgendaWork s (exhaust h v s) := by
  unfold exhaust
  split
  · dsimp only
    split
    · exact (((endEntry_work _ _ s).trans (takeTerminal_work _ _ _ _ _)).trans (updateParts_work _ _ _)).trans
        (releaseIfDone_work _ _)
    · exact ((endEntry_work _ _ s).trans (updateParts_work _ _ _)).trans (releaseIfDone_work _ _)
  · exact .refl s

theorem skipOneShot_work (h : Handle) (v : Time) (s : State) : AgendaWork s (skipOneShot h v s) := by
  unfold skipOneShot
  split
  · dsimp only
    split
    · exact ((endEntry_work _ _ s).trans (takeTerminal_work _ _ _ _ _)).trans (releaseIfDone_work _ _)
    · exact (endEntry_work _ _ s).trans (releaseIfDone_work _ _)
  · exact .refl s

theorem moveOn_work (h : Handle) (sch : Schedule) (due ref v : Time) (s : State) :
    AgendaWork s (moveOn h sch due ref v s) := by
  unfold moveOn
  split
  · exact setStatus_work _ _ _
  · exact exhaust_work _ _ _

theorem advance_work (h : Handle) (sch : Schedule) (due ref v : Time) (s : State) :
    AgendaWork s (advance h sch due ref v s) := by
  cases sch <;> first
    | exact moveOn_work _ _ _ _ _ _
    | exact (endEntry_work _ _ s).trans (releaseIfDone_work _ _)

theorem fireEntry_work (h : Handle) (v ref : Time) (late : Bool) (s : State) :
    AgendaWork s (fireEntry h v ref late s) := by
  unfold fireEntry
  split
  · next e _ =>
    split
    · have a := requestPulse_work e.strobe e.owner s
      dsimp only
      refine .trans ?_ (advance_work _ _ _ _ _ _)
      refine .trans ?_ (updateParts_work _ _ _)
      split
      · exact a.trans (takeOccurrence_work _ _ _ _ _)
      · exact a
    · exact .refl s
  · exact .refl s

theorem compareLoop_work (v : Time) (n : Nat) (s : State) : AgendaWork s (compareLoop v n s) := by
  induction n generalizing s with
  | zero => exact .refl s
  | succ n ih =>
    unfold compareLoop
    split
    · exact (fireEntry_work _ _ _ _ s).trans (ih _)
    · exact .refl s

theorem takeTimelineValue_work (s : State) : AgendaWork s (takeTimelineValue s) := by
  unfold takeTimelineValue
  split
  · exact compareLoop_work _ _ _
  · exact .refl s

/-- Where no entry is due, a comparison changes nothing (R60). -/
theorem takeTimelineValue_idle {s : State} (h : isRunning s = false ∨ dueHead s.tbu.timeline s = none) :
    takeTimelineValue s = s := by
  unfold takeTimelineValue
  split
  · next k =>
    rcases h with h | h
    · simp [h] at k
    · simp [compareLoop, h]
  · rfl

/-! ### The walk -/

theorem realignTo_work (h : Handle) (d : Option Time) (s : State) : AgendaWork s (realignTo h d s) := by
  unfold realignTo
  split
  · exact setStatus_work _ _ _
  · exact .refl s

theorem skipOver_work (h : Handle) (sch : Schedule) (k : Nat) (due new : Time) (s : State) :
    AgendaWork s (skipOver h sch k due new s) := (updateParts_work _ _ _).trans (moveOn_work _ _ _ _ _ _)

theorem visitBackward_work (w : Walk) (h : Handle) (e : Entry) (due : Time) (s : State) :
    AgendaWork s (visitBackward w h e due s) := by
  unfold visitBackward
  split <;> first
    | exact setStatus_work _ _ _
    | exact realignTo_work _ _ _
    | exact .refl s

theorem visitForward_work (w : Walk) (h : Handle) (e : Entry) (due : Time) (s : State) :
    AgendaWork s (visitForward w h e due s).1 := by
  unfold visitForward
  dsimp only
  split <;> (try split) <;> first
    | exact setStatus_work _ _ _
    | exact realignTo_work _ _ _
    | exact skipOneShot_work _ _ _
    | exact skipOver_work _ _ _ _ _ _
    | exact .refl s

theorem visitSlot_work (w : Walk) (h : Handle) (s : State) : AgendaWork s (visitSlot w h s).1 := by
  unfold visitSlot
  split
  · split
    · split
      · exact visitBackward_work _ _ _ _ _
      · exact visitForward_work _ _ _ _ _
    · exact .refl s
  · exact .refl s

theorem lateFirings_work (w : Walk) (s : State) : AgendaWork s (lateFirings w s) :=
  .foldl _ _ _ fun _ _ => fireEntry_work _ _ _ _ _

end Sys2Proof.Machine
end

