-- ==== Sys2Proof/Laws/Frames.lean ====
section
/-! SUPPORT. Numbers as bytes, the judgement of a REQUEST frame, and the release of select with one. -/

namespace Sys2Proof.Machine

/-! ### Numbers as bytes -/

@[simp] theorem toBytes_length (n x : Nat) : (toBytes n x).length = n := by
  induction n with
  | zero => rfl
  | succ n ih => simp [toBytes, ih]

/-- Folding more bytes onto an accumulator shifts it up by their number. -/
theorem foldl_bytes (l : List Byte) (acc : Nat) :
    l.foldl (fun acc x => acc * 256 + x.toNat) acc = acc * 256 ^ l.length + ofBytes l := by
  induction l generalizing acc with
  | nil => simp [ofBytes]
  | cons x l ih =>
    rw [List.foldl_cons, ih]
    simp only [ofBytes, List.foldl_cons, List.length_cons]
    rw [ih (0 * 256 + x.toNat)]
    simp only [ofBytes]
    ring

theorem ofBytes_cons (x : Byte) (l : List Byte) : ofBytes (x :: l) = x.toNat * 256 ^ l.length + ofBytes l := by
  rw [ofBytes, List.foldl_cons, foldl_bytes]
  simp

/-- Bytes hold less than 256 to their number. -/
theorem ofBytes_lt (l : List Byte) : ofBytes l < 256 ^ l.length := by
  induction l with
  | nil => simp [ofBytes]
  | cons x l ih =>
    rw [ofBytes_cons, List.length_cons, Nat.pow_succ]
    have hx : x.toNat < 256 := x.isLt
    nlinarith [hx, ih]

/-- What is read back from `n` bytes of a number is the number modulo 256 to the `n` (R198). -/
theorem ofBytes_toBytes (n x : Nat) : ofBytes (toBytes n x) = x % 256 ^ n := by
  induction n with
  | zero => simp [toBytes, ofBytes, Nat.mod_one]
  | succ n ih =>
    have hm : x % 256 ^ (n + 1) = x % 256 ^ n + 256 ^ n * (x / 256 ^ n % 256) := by
      rw [Nat.pow_succ, Nat.mod_mul]
    rw [toBytes, ofBytes_cons, ih, toBytes_length, BitVec.toNat_ofNat, hm]
    ring

/-- A number that fits is read back (R198). -/
theorem ofBytes_toBytes_of_lt {n x : Nat} (h : x < 256 ^ n) : ofBytes (toBytes n x) = x := by
  rw [ofBytes_toBytes, Nat.mod_eq_of_lt h]

/-- A signed number that fits is read back (R198). -/
theorem ofSignedBytes_signedBytes {n : Nat} {x : Int} (lo : -(256 ^ n : Nat) ≤ 2 * x)
    (hi : 2 * x < (256 ^ n : Nat)) : ofSignedBytes (signedBytes n x) = x := by
  have hp : (0 : Int) < (256 ^ n : Nat) := by positivity
  have hm := Int.emod_nonneg x (ne_of_gt hp)
  have hl := Int.emod_lt_of_pos x hp
  unfold ofSignedBytes signedBytes
  rw [ofBytes_toBytes_of_lt (by omega), toBytes_length]
  by_cases hx : 0 ≤ x
  · have : x % (256 ^ n : Nat) = x := Int.emod_eq_of_lt hx (by omega)
    rw [this]
    have : 2 * x.toNat < 256 ^ n := by omega
    simp only [this, if_true]
    omega
  · have : x % (256 ^ n : Nat) = x + (256 ^ n : Nat) := by
      rw [← Int.add_emod_right]
      exact Int.emod_eq_of_lt (by omega) (by omega)
    rw [this]
    have : ¬ 2 * (x + (256 ^ n : Nat)).toNat < 256 ^ n := by omega
    simp only [this, if_false]
    omega

/-! ### The judgement of a REQUEST -/

/-- What stands in a receiver is all that is stored of the bytes before it (R170, R175). -/
theorem storedOf_append (a b : List Byte) : storedOf (storedOf a ++ b) = storedOf (a ++ b) := by
  cases a with
  | nil => simp [storedOf]
  | cons x a =>
    by_cases h : x = collectMarker
    · simp [storedOf, h]
    · simp [storedOf, h, maxStored, List.take_append, List.take_take]
      omega

/-- Bytes received one after the other, or in one piece, are received alike (R165, R170). -/
theorem receiveBytes_append (r : Received) (a b : List Byte) :
    receiveBytes (receiveBytes r a) b = receiveBytes r (a ++ b) := by
  simp [receiveBytes, storedOf_append, Nat.add_assoc]

@[simp] theorem receiveBytes_count (r : Received) (bytes : List Byte) :
    (receiveBytes r bytes).count = r.count + bytes.length := rfl

/-- A transaction of these bytes alone. -/
theorem receiveBytes_none (bytes : List Byte) : receiveBytes noneReceived bytes = ⟨storedOf bytes, bytes.length⟩ := by
  simp [receiveBytes, noneReceived]

/-- A REQUEST of at most 53 bytes is stored whole (R170). -/
theorem storedOf_request {rest : List Byte} (h : rest.length ≤ 52) :
    storedOf (requestMarker :: rest) = requestMarker :: rest := by
  have hne : requestMarker ≠ collectMarker := by decide
  rw [storedOf, if_neg (by simpa using hne), List.take_of_length_le]
  simp only [List.length_cons, maxStored]
  omega

/-- What has been received of any bytes is in order (R165, R170, R175). -/
theorem receiveBytes_inOrder (bytes : List Byte) : ReceivedInOrder (receiveBytes noneReceived bytes) := by
  rw [receiveBytes_none]
  cases bytes with
  | nil => simp [ReceivedInOrder, storedOf]
  | cons x rest =>
    by_cases h : x = 0x3C#8
    · simp [ReceivedInOrder, storedOf, collectMarker, h]
    · simp [ReceivedInOrder, storedOf, collectMarker, maxStored, h]
      omega

/-- A REQUEST frame with a payload that its length byte can name is judged to carry that command (R170, R171). -/
theorem judgeFrame_requestFrame (code seq : Byte) (payload : List Byte) (h : payload.length ≤ maxPayload) :
    judgeFrame (requestFrame code seq payload) 0 = .request code seq payload := by
  have hl : payload.length ≤ 48 := h
  have hn : (BitVec.ofNat 8 payload.length).toNat = payload.length := by
    rw [BitVec.toNat_ofNat]; omega
  have hb : ∀ c : Byte, byteAt (payload ++ [c]) payload.length = c := by
    intro c; simp [byteAt, List.getD]
  have hne : requestMarker ≠ collectMarker := by decide
  have hs : storedOf (requestFrame code seq payload) = requestFrame code seq payload := by
    exact storedOf_request (by simp; omega)
  rw [judgeFrame, receiveBytes_none, hs]
  simp [judgeReceived, requestFrame, hn, hne, hb, maxPayload, hl]

/-- The length of a REQUEST frame (R170). -/
theorem requestFrame_length (code seq : Byte) (payload : List Byte) :
    (requestFrame code seq payload).length = payload.length + 5 := by
  simp [requestFrame]

/-- The payload length of every command fits a frame (10.3). -/
theorem payloadLength_le {code : Byte} {n : Nat} (h : payloadLength code = some n) : n ≤ maxPayload := by
  have hall : (payloadLength code).all (· ≤ maxPayload) = true := by
    simp [payloadLength, apply_ite (Option.all _), maxPayload]
  rw [h] at hall
  exact of_decide_eq_true hall

/-- Taking the due limits where none is due changes nothing (R3). -/
@[simp] theorem takeDueLimits_of_none {s : State} (h : limitDue s = false) : takeDueLimits s = s := by
  simp [takeDueLimits, h]

/-! ### Data out -/

/-- What a RECEIVING port that is not OFFLINE has shifted out (R166). -/
theorem transactionOut_of_receiving {c : PortCtl} {limit : Mono} {snap : Snapshot} {received : Received}
    (hs : c.select = true) (ho : c.state ≠ .offline) (hr : c.receiver = .receiving limit snap received)
    (bytes : List Byte) : transactionOut c bytes = receivedOut snap (receiveBytes received bytes) := by
  simp [transactionOut, dataOutDriven, hs, ho, hr]

/-- From the event that discarded a transaction on, 00h is shifted out for every byte (R168, R173, R184). -/
theorem transactionOut_of_discarding {c : PortCtl} (hs : c.select = true) (ho : c.state ≠ .offline)
    (hr : c.receiver = .discarding) (bytes : List Byte) :
    transactionOut c bytes = c.dout ++ List.replicate bytes.length 0 := by
  simp [transactionOut, dataOutDriven, hs, ho, hr]

/-- An OFFLINE port shifts nothing out (R169). -/
theorem transactionOut_of_offline {c : PortCtl} (ho : c.state = .offline) (bytes : List Byte) :
    transactionOut c bytes = c.dout := by
  simp [transactionOut, dataOutDriven, ho]

/-! ### Select -/

/-- The assertion of select at a WAITING port that is not OFFLINE (R166, R170). -/
theorem selectAssertion_of_waiting {p : Port} {s : State} (hs : (s.ports.get p).select = false)
    (ho : (s.ports.get p).state ≠ .offline) (hr : (s.ports.get p).receiver = .waiting) (bytes : List Byte) :
    selectAssertion p bytes s =
      s.setPort p ⟨true, (s.ports.get p).state,
        .receiving (s.tbu.mono + frameLimitTicks) (snapshotOf s p) ⟨storedOf bytes, bytes.length⟩,
        shiftedOut (snapshotOf s p) bytes⟩ := by
  simp [selectAssertion, hs, assertedReceiver, hr, isOffline, ho, clocked, receiverClocked, transactionOut, dataOutDriven,
    shiftedOut, receiveBytes_none]

/-- The assertion of select at an OFFLINE port changes the pin, and begins an empty record (R169; logs 7, 25). -/
theorem selectAssertion_of_offline {p : Port} {s : State} (hs : (s.ports.get p).select = false)
    (ho : (s.ports.get p).state = .offline) (bytes : List Byte) :
    selectAssertion p bytes s = s.setPort p { s.ports.get p with select := true, dout := [] } := by
  cases h : (s.ports.get p).receiver <;> simp [selectAssertion, hs, assertedReceiver, h, isOffline, ho, clocked]

/-- The release of a discarded transaction judges nothing (R173). -/
theorem releaseSelect_of_discarding {p : Port} {s : State} (hs : (s.ports.get p).select = true)
    (ho : (s.ports.get p).state ≠ .offline) (hr : (s.ports.get p).receiver = .discarding) (bytes : List Byte)
    (bits : Fin 8) :
    releaseSelect p bytes bits s =
      s.setPort p ⟨false, (s.ports.get p).state, .waiting,
        (s.ports.get p).dout ++ List.replicate bytes.length 0⟩ := by
  have hoff : isOffline (s.ports.get p) = false := by simpa [isOffline] using ho
  simp [releaseSelect, hs, hr, hoff, releasedCtl, transactionOut_of_discarding hs ho hr]

/-- The release of select at an OFFLINE port changes the pin alone (R169; log 25). -/
theorem releaseSelect_of_offline {p : Port} {s : State} (hs : (s.ports.get p).select = true)
    (ho : (s.ports.get p).state = .offline) (bytes : List Byte) (bits : Fin 8) :
    releaseSelect p bytes bits s = s.setPort p { s.ports.get p with select := false } := by
  have hoff : isOffline (s.ports.get p) = true := by simp [isOffline, ho]
  cases hr : (s.ports.get p).receiver <;>
    simp [releaseSelect, hs, hr, hoff, releasedCtl, transactionOut_of_offline ho]

/-- A release judges the bytes that were received before it and those that come with it alike (R170, R171; log 6). -/
theorem releaseSelect_of_received {p : Port} {limit : Mono} {snap : Snapshot} {first : List Byte} {s : State}
    (hs : (s.ports.get p).select = true)
    (hr : (s.ports.get p).receiver = .receiving limit snap (receiveBytes noneReceived first))
    (bytes : List Byte) (bits : Fin 8) (ho : (s.ports.get p).state ≠ .offline) :
    releaseSelect p bytes bits s =
      releaseSelect p (first ++ bytes) bits
        (s.setPort p { s.ports.get p with receiver := .receiving limit snap noneReceived }) := by
  simp [releaseSelect, hs, hr, isOffline, ho, releasedCtl, transactionOut, dataOutDriven, State.setPort,
    receiveBytes_append]

/-! ### The release of select after a REQUEST frame -/

/-- The port after the release, before the frame is judged. -/
theorem releaseSelect_of_selected {p : Port} {snap : Snapshot} {s : State} {bytes : List Byte} {bits : Fin 8}
    (h : Selected p snap s) (ho : (s.ports.get p).state ≠ .offline) (hb : bytes ≠ []) :
    releaseSelect p bytes bits s =
      judgeTransaction p (receiveBytes noneReceived bytes) bits (transacted p snap bytes (s.ports.get p).state s) := by
  obtain ⟨hs, limit, hr⟩ := h
  have hoff : isOffline (s.ports.get p) = false := by simpa [isOffline] using ho
  simp [releaseSelect, hs, hr, hoff, hb, releasedCtl, transacted, shiftedOut,
    transactionOut_of_receiving hs ho hr]

/-- A ready port takes the command of a good REQUEST frame (R171, R172, R174). -/
theorem sendRequest_of_ready {p : Port} {snap : Snapshot} {s : State} (code seq : Byte) {payload : List Byte}
    (h : Ready p snap s) (hl : payload.length ≤ maxPayload) :
    sendRequest p code seq payload (takeDueLimits s) =
      judgeCommand p code payload (outstanding p snap code seq payload false s) := by
  obtain ⟨hs, ha, hd⟩ := h
  have ho : (s.ports.get p).state ≠ .offline := by
    intro e; simp [e, acceptsRequest] at ha
  have hb : requestFrame code seq payload ≠ [] := by simp [requestFrame]
  rw [takeDueLimits_of_none hd, sendRequest, releaseSelect_of_selected hs ho hb, judgeTransaction,
    ← judgeFrame, judgeFrame_requestFrame _ _ _ hl]
  simp only [judgeRequest]
  have hp : ((transacted p snap (requestFrame code seq payload) (s.ports.get p).state s).ports.get p).state =
      (s.ports.get p).state := by simp [transacted]
  rw [hp]
  cases hst : (s.ports.get p).state <;> simp [hst, acceptsRequest] at ha ⊢ <;>
    simp [takeCommand, outstanding, transacted, State.setPort]

/-- A ready port hands a command of the right length to its block (R177, R178). -/
theorem sendRequest_runs {p : Port} {snap : Snapshot} {s : State} {code : Byte} (seq : Byte) {payload : List Byte}
    (h : Ready p snap s) (hl : payloadLength code = some payload.length) :
    sendRequest p code seq payload (takeDueLimits s) =
      runCommand p code payload (outstanding p snap code seq payload false s) := by
  rw [sendRequest_of_ready code seq h (payloadLength_le hl), judgeCommand, hl]
  simp

/-! ### What an outstanding command leaves of the state -/

@[simp] theorem transacted_frame (p : Port) (snap : Snapshot) (bytes : List Byte) (st : PortState) (s : State) :
    (transacted p snap bytes st s).tbu = s.tbu ∧ (transacted p snap bytes st s).lease = s.lease ∧
    (transacted p snap bytes st s).agu = s.agu ∧ (transacted p snap bytes st s).queues = s.queues ∧
    (transacted p snap bytes st s).attn = s.attn ∧ (transacted p snap bytes st s).strobes = s.strobes ∧
    (transacted p snap bytes st s).pru = s.pru ∧ (transacted p snap bytes st s).spm = s.spm ∧
    (transacted p snap bytes st s).draws = s.draws ∧ (transacted p snap bytes st s).pending = s.pending := by
  simp [transacted]

@[simp] theorem transacted_ports (p : Port) (snap : Snapshot) (bytes : List Byte) (st : PortState) (s : State) :
    (transacted p snap bytes st s).ports = s.ports.set p ⟨false, st, .waiting, shiftedOut snap bytes⟩ := rfl

/-- Completing an outstanding command answers it (R179). -/
@[simp] theorem complete_outstanding (p : Port) (snap : Snapshot) (code seq : Byte) (payload : List Byte) (held : Bool)
    (r : Result) (out : List Byte) (s : State) :
    complete p r out (outstanding p snap code seq payload held s) = answered p snap code seq payload r out s := by
  simp [complete, outstanding, answered, transacted, State.setPort]

@[simp] theorem outstanding_frame (p : Port) (snap : Snapshot) (code seq : Byte) (payload : List Byte) (held : Bool)
    (s : State) :
    (outstanding p snap code seq payload held s).tbu = s.tbu ∧
    (outstanding p snap code seq payload held s).lease = s.lease ∧
    (outstanding p snap code seq payload held s).agu = s.agu ∧
    (outstanding p snap code seq payload held s).queues = s.queues ∧
    (outstanding p snap code seq payload held s).attn = s.attn ∧
    (outstanding p snap code seq payload held s).strobes = s.strobes ∧
    (outstanding p snap code seq payload held s).pru = s.pru ∧
    (outstanding p snap code seq payload held s).spm = s.spm ∧
    (outstanding p snap code seq payload held s).draws = s.draws ∧
    (outstanding p snap code seq payload held s).pending = s.pending := by
  simp [outstanding]

/-! ### What the blocks read of a state with an outstanding command -/

@[simp] theorem outstanding_ports (p : Port) (snap : Snapshot) (code seq : Byte) (payload : List Byte) (held : Bool)
    (s : State) :
    (outstanding p snap code seq payload held s).ports =
      s.ports.set p ⟨false, .working ⟨code, seq, payload, held⟩, .waiting,
        shiftedOut snap (requestFrame code seq payload)⟩ := rfl

@[simp] theorem outstanding_views (p : Port) (snap : Snapshot) (code seq : Byte) (payload : List Byte) (held : Bool)
    (s : State) :
    (∀ h, slot (outstanding p snap code seq payload held s) h = slot s h) ∧
    (∀ q, isHolder (outstanding p snap code seq payload held s) q = isHolder s q) ∧
    (∀ q, ownedCount (outstanding p snap code seq payload held s) q = ownedCount s q) ∧
    (∀ q, attnCondition (outstanding p snap code seq payload held s) q = attnCondition s q) ∧
    (∀ q, noticeSource (outstanding p snap code seq payload held s) q = noticeSource s q) ∧
    walkOf (outstanding p snap code seq payload held s) = walkOf s ∧
    isRunning (outstanding p snap code seq payload held s) = isRunning s ∧
    inMain (outstanding p snap code seq payload held s) = inMain s ∧
    remainingLease (outstanding p snap code seq payload held s) = remainingLease s := by
  refine ⟨by simp [slot], by simp [isHolder], fun q => ownedCount_congr (by simp [slot]) q, ?_⟩
  simp [attnCondition, attnSources, noticeSource, walkOf, isRunning, inMain, remainingLease]

/-- Completing the command after a block did its work, which touched no port, answers it (R179). -/
theorem complete_after {p : Port} {snap : Snapshot} {code seq : Byte} {payload : List Byte} {held : Bool} {s t : State}
    (r : Result) (out : List Byte) (h : t.ports = (outstanding p snap code seq payload held s).ports) :
    complete p r out t = answered p snap code seq payload r out t := by
  simp [complete, answered, transacted, State.setPort, h]

/-- What an answered command leaves is the state with one port replaced, whatever stood at the port (R174, R179). -/
theorem answered_congr {p : Port} {snap : Snapshot} {code seq : Byte} {payload : List Byte} {r : Result}
    {out : List Byte} {s t : State} (h : t = { s with ports := t.ports })
    (hp : ∀ q, q ≠ p → t.ports.get q = s.ports.get q) :
    answered p snap code seq payload r out t = answered p snap code seq payload r out s := by
  have : t.ports.set p ⟨false, .done ⟨code, seq, r, out⟩, .waiting, shiftedOut snap (requestFrame code seq payload)⟩ =
      s.ports.set p ⟨false, .done ⟨code, seq, r, out⟩, .waiting, shiftedOut snap (requestFrame code seq payload)⟩ := by
    apply PerPort.ext_get
    intro q
    by_cases e : q = p
    · subst e; simp
    · simp [e, hp q e]
  rw [h]
  simp only [answered, transacted, State.setPort]
  rw [this]

/-! ### The hand-over of each command (R178) -/

section Hand
variable (p : Port) (payload : List Byte) (s : State)

@[simp] theorem runCommand_identify : runCommand p codeIdentify payload s = runIdentify p s := rfl
@[simp] theorem runCommand_selfReset : runCommand p codeSelfReset payload s = runSelfReset p s := by
  simp [runCommand, codeIdentify, codeSelfReset]
@[simp] theorem runCommand_readTime : runCommand p codeReadTime payload s = runReadTime p s := rfl
@[simp] theorem runCommand_readCalendar : runCommand p codeReadCalendar payload s = runReadCalendar p s := rfl
@[simp] theorem runCommand_claimAuthority : runCommand p codeClaimAuthority payload s = runClaimAuthority p payload s := rfl
@[simp] theorem runCommand_releaseAuthority : runCommand p codeReleaseAuthority payload s = runReleaseAuthority p s := rfl
@[simp] theorem runCommand_stepTime :
    runCommand p codeStepTime payload s = withAuthority p (handToAgenda p (.step payload)) s := rfl
@[simp] theorem runCommand_slewTime : runCommand p codeSlewTime payload s = withAuthority p (runSlewTime p payload) s := rfl
@[simp] theorem runCommand_setTrim : runCommand p codeSetTrim payload s = withAuthority p (runSetTrim p payload) s := rfl
@[simp] theorem runCommand_createEntry : runCommand p codeCreateEntry payload s = handToAgenda p (.create payload) s := rfl
@[simp] theorem runCommand_cancelEntry : runCommand p codeCancelEntry payload s = handToAgenda p (.cancel payload) s := rfl
@[simp] theorem runCommand_queryEntry : runCommand p codeQueryEntry payload s = handToAgenda p (.query payload) s := rfl
@[simp] theorem runCommand_listOwn : runCommand p codeListOwn payload s = handToAgenda p .listOwn s := rfl
@[simp] theorem runCommand_takeNotices : runCommand p codeTakeNotices payload s = runTakeNotices p payload s := rfl
@[simp] theorem runCommand_ackNotices : runCommand p codeAckNotices payload s = runAckNotices p payload s := rfl
@[simp] theorem runCommand_readFlags : runCommand p codeReadFlags payload s = runReadFlags p s := rfl
@[simp] theorem runCommand_clearFlags : runCommand p codeClearFlags payload s = runClearFlags p payload s := rfl
@[simp] theorem runCommand_setAttention : runCommand p codeSetAttention payload s = runSetAttention p payload s := rfl
@[simp] theorem runCommand_readProfile : runCommand p codeReadProfile payload s = runReadProfile p payload s := rfl
@[simp] theorem runCommand_setProfile : runCommand p codeSetProfile payload s = withAdmin p (runSetProfile p payload) s := rfl
@[simp] theorem runCommand_setStrobeMap :
    runCommand p codeSetStrobeMap payload s = withAdmin p (runSetStrobeMap p payload) s := rfl
@[simp] theorem runCommand_resetPort : runCommand p codeResetPort payload s = withAdmin p (runResetPort p payload) s := rfl

end Hand

/-! ### Fields of a payload -/

@[simp] theorem byteAt_cons_zero (x : Byte) (l : List Byte) : byteAt (x :: l) 0 = x := rfl

@[simp] theorem byteAt_cons_succ (x : Byte) (l : List Byte) (n : Nat) : byteAt (x :: l) (n + 1) = byteAt l n := rfl

theorem byteAt_append_left {l k : List Byte} {n : Nat} (h : n < l.length) : byteAt (l ++ k) n = byteAt l n := by
  simp [byteAt, List.getD_eq_getElem?_getD, List.getElem?_append_left h]

theorem byteAt_append_right {l k : List Byte} {n : Nat} (h : l.length ≤ n) :
    byteAt (l ++ k) n = byteAt k (n - l.length) := by
  simp [byteAt, List.getD_eq_getElem?_getD, List.getElem?_append_right h]

/-- A field that stands after a prefix. -/
theorem field_append_right {l k : List Byte} {o n : Nat} (h : l.length ≤ o) :
    field (l ++ k) o n = field k (o - l.length) n := by
  simp only [field, List.drop_append, List.drop_eq_nil_of_le h, List.nil_append]

/-- A field that stands at the front. -/
theorem field_append_left {l k : List Byte} {n : Nat} (h : l.length = n) : field (l ++ k) 0 n = l := by
  simp [field, ← h]

theorem field_cons_succ (x : Byte) (l : List Byte) (o n : Nat) : field (x :: l) (o + 1) n = field l o n := rfl

theorem field_self {l : List Byte} {n : Nat} (h : l.length = n) : field l 0 n = l := by
  simp [field, ← h]

end Sys2Proof.Machine
end

