-- ==== Sys2Proof/Laws/PortBlind.lean ====
section
/-! SUPPORT. The blocks that work on flags, queues and entries do not look at a Port Controller: a port that is set before
their work is as well set after it. -/

namespace Sys2Proof.Machine

section
variable (p : Port) (x : PortCtl) (s : State)

@[simp] theorem setPort_views :
    inMain (s.setPort p x) = inMain s ∧ (∀ q, attnCondition (s.setPort p x) q = attnCondition s q) ∧
    (∀ q, hasRoom (s.setPort p x) q = hasRoom s q) ∧
    (∀ h e, hasReference (s.setPort p x) h e = hasReference s h e) ∧
    (∀ q h, ownedBy (s.setPort p x) q h = ownedBy s q h) ∧ (∀ q, isHolder (s.setPort p x) q = isHolder s q) ∧
    walkOf (s.setPort p x) = walkOf s ∧ isRunning (s.setPort p x) = isRunning s :=
  ⟨rfl, fun _ => rfl, fun _ => rfl, fun _ _ => rfl, fun _ _ => rfl, fun _ => rfl, rfl, rfl⟩

@[simp] theorem setTbu_setPort (y : Tbu) : (s.setPort p x).setTbu y = (s.setTbu y).setPort p x := rfl

@[simp] theorem setPru_setPort (y : Pru) : (s.setPort p x).setPru y = (s.setPru y).setPort p x := rfl

@[simp] theorem setStrobe_setPort (l : Line) (y : StrobeLine) :
    (s.setPort p x).setStrobe l y = (s.setStrobe l y).setPort p x := rfl

@[simp] theorem setAgu_setPort (y : Agu) : (s.setPort p x).setAgu y = (s.setAgu y).setPort p x := rfl

@[simp] theorem setAttn_setPort (q : Port) (y : Attn) :
    (s.setPort p x).setAttn q y = (s.setAttn q y).setPort p x := rfl

@[simp] theorem setQueue_setPort (q : Port) (y : NoticeQueue) :
    (s.setPort p x).setQueue q y = (s.setQueue q y).setPort p x := rfl

@[simp] theorem setLease_setPort (y : Option Lease) :
    (s.setPort p x).setLease y = (s.setLease y).setPort p x := rfl

@[simp] theorem followAttention_setPort (q : Port) (b : Bool) :
    followAttention q b (s.setPort p x) = (followAttention q b s).setPort p x := by
  unfold followAttention
  cases h : inMain s <;> simp [h]

@[simp] theorem handFlag_setPort (f : Flag) (q : Port) :
    handFlag f q (s.setPort p x) = (handFlag f q s).setPort p x := by
  simp [handFlag]

@[simp] theorem loseLease_setPort : loseLease (s.setPort p x) = (loseLease s).setPort p x := by
  unfold loseLease
  cases h : s.lease <;> simp [h]

@[simp] theorem replaceQueue_setPort (q : Port) (n : NoticeQueue) :
    replaceQueue q n (s.setPort p x) = (replaceQueue q n s).setPort p x := by
  simp [replaceQueue]

@[simp] theorem appendNotice_setPort (q : Port) (h : Handle) (t : Half) (r : Report) :
    appendNotice q h t r (s.setPort p x) = (appendNotice q h t r s).setPort p x := by
  simp [appendNotice]

@[simp] theorem putSlot_setPort (h : Handle) (e : Option Entry) :
    putSlot h e (s.setPort p x) = (putSlot h e s).setPort p x := by
  simp [putSlot]

@[simp] theorem updateParts_setPort (h : Handle) (f : EntryParts → EntryParts) :
    updateParts h f (s.setPort p x) = (updateParts h f s).setPort p x := by
  unfold updateParts
  cases hs : slot s h <;> simp [hs]

@[simp] theorem setStatus_setPort (h : Handle) (st : EntryStatus) :
    setStatus h st (s.setPort p x) = (setStatus h st s).setPort p x := by
  unfold setStatus
  cases hs : slot s h <;> simp [hs]

@[simp] theorem releaseIfDone_setPort (h : Handle) :
    releaseIfDone h (s.setPort p x) = (releaseIfDone h s).setPort p x := by
  unfold releaseIfDone
  cases hs : slot s h with
  | none => simp [hs]
  | some e => cases hk : isEnded e && !hasReference s h e <;> simp [hs, hk]

theorem foldl_setPort {α : Type} (f : State → α → State)
    (hf : ∀ s a, f (s.setPort p x) a = (f s a).setPort p x) (l : List α) (s : State) :
    l.foldl f (s.setPort p x) = (l.foldl f s).setPort p x := by
  induction l generalizing s with
  | nil => rfl
  | cons a l ih => rw [List.foldl_cons, hf, ih]; rfl

@[simp] theorem releaseEnded_setPort (q : Port) :
    releaseEnded q (s.setPort p x) = (releaseEnded q s).setPort p x := by
  unfold releaseEnded
  refine foldl_setPort p x _ ?_ _ _
  intro s h
  cases hk : ownedBy s q h <;> simp [hk]

@[simp] theorem drainSummary_setPort (q : Port) (h : Handle) :
    drainSummary q h (s.setPort p x) = (drainSummary q h s).setPort p x := by
  unfold drainSummary
  cases hs : slot s h with
  | none => simp [hs]
  | some e => cases hk : e.summary <;> cases hr : hasRoom s q <;> simp [hs, hk, hr]

@[simp] theorem drainTerminal_setPort (q : Port) (h : Handle) :
    drainTerminal q h (s.setPort p x) = (drainTerminal q h s).setPort p x := by
  unfold drainTerminal
  cases hs : slot s h with
  | none => simp [hs]
  | some e => cases hk : e.summary <;> cases ht : e.terminal <;> cases hr : hasRoom s q <;> simp [hs, hk, ht, hr]

@[simp] theorem drain_setPort (q : Port) : drain q (s.setPort p x) = (drain q s).setPort p x := by
  unfold drain
  refine foldl_setPort p x _ ?_ _ _
  intro s h
  cases hk : ownedBy s q h <;> simp [hk]
end

end Sys2Proof.Machine
end

