-- ==== Sys2Proof/Laws/Profiles.lean ====
section
/-! SUPPORT. The read of the profile image: what the controller does on its pins, and how a read ends. -/

namespace Sys2Proof.Machine

/-! ### Recovery -/

/-- A recovery stops at the first high sample (R160, step 1). -/
@[simp] theorem recoveryPulses_high (n : Nat) (rest : List Bool) : recoveryPulses (n + 1) (true :: rest) = [true] := rfl

/-- A recovery goes on after a low sample (R160, step 1). -/
@[simp] theorem recoveryPulses_low (n : Nat) (rest : List Bool) :
    recoveryPulses (n + 1) (false :: rest) = false :: recoveryPulses n rest := rfl

/-- A recovery without samples has no pulse. -/
@[simp] theorem recoveryPulses_nil (n : Nat) : recoveryPulses n [] = [] := by
  cases n <;> rfl

/-- Low samples and then a high one: the recovery ends with the high one (R160, step 1). -/
theorem recoveryPulses_of_prefix (n k : Nat) (rest : List Bool) (h : k < n) :
    recoveryPulses n (List.replicate k false ++ true :: rest) = List.replicate k false ++ [true] := by
  induction k generalizing n with
  | zero =>
    obtain ⟨m, rfl⟩ : ∃ m, n = m + 1 := ⟨n - 1, by omega⟩
    rfl
  | succ k ih =>
    obtain ⟨m, rfl⟩ : ∃ m, n = m + 1 := ⟨n - 1, by omega⟩
    simpa [List.replicate_succ] using ih m (by omega)

/-- Low samples alone give one pulse each, up to nine (R160, step 1). -/
theorem recoveryPulses_of_low (n : Nat) (l : List Bool) (h : ∀ x ∈ l, x = false) : recoveryPulses n l = l.take n := by
  induction l generalizing n with
  | nil => simp
  | cons x rest ih =>
    cases n with
    | zero => rfl
    | succ n =>
      obtain rfl := h x (by simp)
      simp [ih n fun y hy => h y (by simp [hy])]

/-! ### The bytes sent and received -/

/-- Three acknowledged bytes: start, A0h, 00h, repeated start, A1h (R160, steps 2 and 3). -/
@[simp] theorem sendItems_acknowledged (rest : List Bool) :
    sendItems bytesToSend (true :: true :: true :: rest) =
      [.start, .sent 0xA0 true, .sent 0x00 true, .repeatedStart, .sent 0xA1 true] := rfl

/-- A byte that is not acknowledged is followed by a stop condition at once (R161). -/
theorem sendItems_refused (rest : List Bool) :
    sendItems bytesToSend (false :: rest) = refusedItems 0 ∧
      sendItems bytesToSend (true :: false :: rest) = refusedItems 1 ∧
      sendItems bytesToSend (true :: true :: false :: rest) = refusedItems 2 := ⟨rfl, rfl, rfl⟩

/-- A read of 33 bytes (R160, steps 2 to 5). -/
theorem readingItems_complete {x : ReadTransfer} (ha : x.acks.take 3 = [true, true, true]) (hb : 33 ≤ x.bytes.length) :
    readingItems x = readItems (x.bytes.take 33) := by
  obtain ⟨recovery, acks, bytes⟩ := x
  have hacks : ∃ rest, acks = true :: true :: true :: rest := by
    match acks, ha with
    | _ :: _ :: _ :: rest, ha => exact ⟨rest, by simp at ha; simp [ha]⟩
  obtain ⟨rest, rfl⟩ := hacks
  simp only at hb
  simp [readingItems, acknowledged, receiveItems, hb, readItems]

/-! ### How a read ends -/

/-- A read that is over leaves the load READY and the controller IDLE, with the outcome recorded (R163). -/
theorem completeLoad_frame (o : PerPort Profile × PerLine StrobeRecord × ProfileSource) (bus : List BusItem) (s : State) :
    (completeLoad o bus s).tbu = s.tbu ∧ (completeLoad o bus s).lease = s.lease ∧ (completeLoad o bus s).agu = s.agu ∧
      (completeLoad o bus s).queues = s.queues ∧ (completeLoad o bus s).attn = s.attn ∧
      (completeLoad o bus s).strobes = s.strobes ∧ (completeLoad o bus s).spm = s.spm ∧
      (completeLoad o bus s).draws = s.draws ∧ (completeLoad o bus s).pending = s.pending ∧
      (completeLoad o bus s).pru = ⟨o.1, o.2.1, o.2.2, .ready, .idle, bus⟩ ∧
      (completeLoad o bus s).ports = s.ports.map readyPort := ⟨rfl, rfl, rfl, rfl, rfl, rfl, rfl, rfl, rfl, rfl, rfl⟩

/-- Everything that a step of a read can do: nothing; the recovery is over and the controller READING; or the end with an
outcome (R160 to R163). -/
theorem profileLoadComplete_cases (x : ReadTransfer) (s : State) :
    profileLoadComplete x s = s ∨
      readRuns s = true ∧
        ((∃ bus, profileLoadComplete x s = { s with pru := { s.pru with twoWire := .reading, bus := bus } }) ∨
          (∃ bus, profileLoadComplete x s = completeLoad (defaultProfiles, defaultStrobeMap, .defaultAbsent) bus s) ∨
          ∃ bytes bus, profileLoadComplete x s = completeLoad (loadOutcome bytes) bus s) := by
  unfold profileLoadComplete
  split
  · next hr =>
    simp only
    split
    · exact .inr ⟨hr, .inr (.inl ⟨_, rfl⟩)⟩
    · exact .inr ⟨hr, .inr (.inr ⟨_, _, rfl⟩)⟩
    · split
      · exact .inr ⟨hr, .inl ⟨_, rfl⟩⟩
      · exact .inl rfl
  · exact .inl rfl

end Sys2Proof.Machine
end

