-- ==== Sys2Proof/Laws/Records.lean ====
section
/-! SUPPORT. The records of 10.7 read back: profiles, strobe maps, port codes. -/

namespace Sys2Proof.Machine

theorem toBytes_two (n : Nat) : toBytes 2 n = [BitVec.ofNat 8 (n / 256), BitVec.ofNat 8 n] := by
  simp [toBytes]

theorem field_drop (l k : List Byte) (o n : Nat) : field (l ++ k) (l.length + o) n = field k o n := by
  rw [field_append_right (by omega)]; congr 1; omega

theorem byteAt_drop (l k : List Byte) (o : Nat) : byteAt (l ++ k) (l.length + o) = byteAt k o := by
  rw [byteAt_append_right (by omega)]; congr 1; omega

/-- A profile record in range is read back from its bytes, wherever they stand (10.7). -/
theorem profileAt_profileBytes (l k : List Byte) (r : Profile) (h : profileInRange r = true) :
    profileAt (l ++ (profileBytes r ++ k)) l.length = some r := by
  have b0 : byteAt (l ++ (profileBytes r ++ k)) l.length =
      (if r.admin then 0x01 else 0x00) ||| (if r.maySteer then 0x02 else 0x00) := by
    have := byteAt_drop l (profileBytes r ++ k) 0
    simpa [profileBytes] using this
  have b3 : byteAt (l ++ (profileBytes r ++ k)) (l.length + 3) = r.base := by
    rw [byteAt_drop]; simp [profileBytes, toBytes_two]
  have b4 : byteAt (l ++ (profileBytes r ++ k)) (l.length + 4) = r.limit := by
    rw [byteAt_drop]; simp [profileBytes, toBytes_two]
  have b5 : byteAt (l ++ (profileBytes r ++ k)) (l.length + 5) = r.quota := by
    rw [byteAt_drop]; simp [profileBytes, toBytes_two]
  have n1 : numField (l ++ (profileBytes r ++ k)) (l.length + 1) 2 = r.maxLease.toNat := by
    rw [numField, field_drop]
    have : field (profileBytes r ++ k) 1 2 = toBytes 2 r.maxLease.toNat := by
      simp [profileBytes, field, toBytes_two]
    rw [this]; exact ofBytes_toBytes_of_lt r.maxLease.isLt
  simp only [profileInRange, Bool.and_eq_true, decide_eq_true_eq] at h
  unfold profileAt
  simp only [b0, b3, b4, b5, n1]
  rw [if_pos]
  · obtain ⟨ad, ms, ml, ba, li, qu⟩ := r
    cases ad <;> cases ms <;> simp
  · refine ⟨?_, h.1.1.1.1, h.1.1.1.2, h.1.1.2, h.1.2, h.2⟩
    cases r.admin <;> cases r.maySteer <;> rfl

theorem portOfCode_portCode (t : Port) : portOfCode (portCode t) = some t := by cases t <;> rfl

theorem strobeRecordOf_strobeByte (r : StrobeRecord) : strobeRecordOf (strobeByte r) = some r := by
  obtain ⟨o, p⟩ := r
  rcases o with _ | o <;> [skip; cases o] <;> cases p <;> rfl

/-- A strobe map is read back from its bytes, wherever they stand (10.7). -/
theorem strobeMapAt_bytes (l k : List Byte) (m : PerLine StrobeRecord) :
    strobeMapAt (l ++ (strobeMapBytes m ++ k)) l.length = some m := by
  have e : ∀ i, byteAt (l ++ (strobeMapBytes m ++ k)) (l.length + i) = byteAt (strobeMapBytes m ++ k) i :=
    fun _ => byteAt_drop _ _ _
  have e0 := e 0
  simp only [Nat.add_zero] at e0
  unfold strobeMapAt
  simp only [e, e0]
  simp [strobeMapBytes, strobeRecordOf_strobeByte]

/-- A table carries ADMIN where one of its records does (R149). -/
theorem someAdmin_iff (t : PerPort Profile) : someAdmin t = true ↔ ∃ p, (t.get p).admin = true := by
  unfold someAdmin
  constructor
  · intro h
    simp only [Bool.or_eq_true] at h
    rcases h with ((h | h) | h) | h
    · exact ⟨.a, h⟩
    · exact ⟨.b, h⟩
    · exact ⟨.c, h⟩
    · exact ⟨.d, h⟩
  · rintro ⟨p, h⟩
    cases p <;> simp [PerPort.get] at h <;> simp [h]

end Sys2Proof.Machine
end

