-- ==== Sys2Proof/Laws/Timebase.lean ====
section
/-! SUPPORT. The oscillator tick by the table of R5, and what handing VALIDITY leaves. -/

namespace Sys2Proof.Machine

/-- The trim effect is the one that the table of R5 gives. -/
theorem trimEffect_row (t : Tbu) (m : Mono) : trimEffect t.trim m = trimRow t m := by
  unfold trimEffect trimRow
  cases h : isTrimTick t.trim m
  · simp
  · rcases lt_trichotomy t.trim 0 with k | k | k
    · simp [k, Int.sign_eq_neg_one_of_neg k]; omega
    · simp [k]
    · simp [k, Int.sign_eq_one_of_pos k]

/-- A trim effect is one tick at most. -/
theorem trimRow_bounds (t : Tbu) (m : Mono) : -1 ≤ trimRow t m ∧ trimRow t m ≤ 1 := by
  unfold trimRow; split <;> [skip; split] <;> omega

/-- The slew effect is the one that the table of R5 gives. -/
theorem slewEffect_row (t : Tbu) (m : Mono) : slewEffect t.trim t.slew m = slewRow t m := by
  unfold slewEffect slewRow
  rw [trimEffect_row]
  have := trimRow_bounds t m
  by_cases h : m.toNat % 64 = 0
  · have hs : isSlewTick m = true := by simp [isSlewTick, h]
    rcases lt_trichotomy t.slew 0 with k | k | k
    · simp only [hs, h, k, Int.sign_eq_neg_one_of_neg k, true_and, if_true]
      split <;> split <;> (try split) <;> omega
    · simp [hs, h, k]
    · simp only [hs, h, k, Int.sign_eq_one_of_pos k, true_and, if_true]
      simp; omega
  · have hs : isSlewTick m = false := by simp [isSlewTick, h]
    simp [hs, h]

/-- A slew effect is one tick at most, and none downwards beside a negative trim adjustment (R5). -/
theorem slewRow_bounds (t : Tbu) (m : Mono) :
    -1 ≤ slewRow t m ∧ slewRow t m ≤ 1 ∧ (trimRow t m = -1 → slewRow t m ≠ -1) := by
  unfold slewRow; split <;> [skip; split] <;> refine ⟨by omega, by omega, ?_⟩ <;> intros <;> omega

/-- All that a tick does to the TBU: it advances by the sum of R5, from 0 to 3, and says whether it completed a slew. -/
theorem tbuTick_ticked (t : Tbu) :
    ∃ adv : Nat, adv ≤ 3 ∧ (adv : Int) = 1 + trimRow t (t.mono + 1) + slewRow t (t.mono + 1) ∧
    (tbuTick t).1 = ticked t adv ∧ (tbuTick t).2.2 = completesSlew t (ticked t adv) := by
  have h1 := trimRow_bounds t (t.mono+1)
  obtain ⟨h2, h3, h4⟩ := slewRow_bounds t (t.mono+1)
  refine ⟨(1 + trimRow t (t.mono + 1) + slewRow t (t.mono + 1)).toNat, by omega, by omega, ?_⟩
  have hadv : tickAdvance t (t.mono+1) = ((1 + trimRow t (t.mono + 1) + slewRow t (t.mono + 1)).toNat : Int) := by
    rw [tickAdvance, trimEffect_row, slewEffect_row]; omega
  generalize (1 + trimRow t (t.mono + 1) + slewRow t (t.mono + 1)).toNat = adv at *
  have ht : t.timeline.toNat < 2^44 := t.timeline.isLt
  have hc : ∀ u : Tbu, completesSlew t u = decide (t.slew ≠ 0 ∧ u.slew = 0) := by
    intro u; unfold completesSlew
    by_cases a : t.slew = 0 <;> by_cases b : u.slew = 0 <;> simp [a, b]
  rw [hc]
  have hlast : ∀ x : Nat, lastTime.toNat < t.timeline.toNat + x →
      timeOf (min lastTime.toNat (t.timeline.toNat + x)) = lastTime := by
    intro x hx
    rw [Nat.min_eq_left (by omega)]; simp [timeOf, lastTime]
  unfold tbuTick ticked
  simp only [hadv, slewEffect_row]
  by_cases hl : t.timeline = lastTime
  · simp only [hl, if_true] at *
    by_cases ha : 1 ≤ (adv : Int)
    · have hx : lastTime.toNat < lastTime.toNat + adv := by omega
      simp only [ha, hx, if_true]
      refine ⟨?_, ?_⟩
      · rw [hlast adv hx]
      · by_cases hz : t.slew = 0 <;> simp [hz]
    · have h0 : adv = 0 := by omega
      subst h0
      refine ⟨?_, ?_⟩
      · simp [timeOf, lastTime]
      · by_cases hz : t.slew = 0 <;> simp [hz]
  · simp only [hl, if_false]
    by_cases ha : (lastTime.toNat : Int) < (t.timeline.toNat : Int) + adv
    · have hb : lastTime.toNat < t.timeline.toNat + adv := by omega
      simp only [ha, hb, if_true]
      refine ⟨?_, trivial⟩
      rw [hlast adv hb]
    · have hb : ¬ lastTime.toNat < t.timeline.toNat + adv := by omega
      have hm : min lastTime.toNat (t.timeline.toNat + adv) = t.timeline.toNat + adv := Nat.min_eq_right (by omega)
      simp only [ha, hb, if_false]
      refine ⟨?_, trivial⟩
      rw [hm]
      rfl

/-- Handing VALIDITY reaches the flags alone. -/
@[simp] theorem handValidityChange_frame (v : Validity) (s : State) :
    (handValidityChange v s).tbu = s.tbu ∧ (handValidityChange v s).lease = s.lease ∧ (handValidityChange v s).agu = s.agu ∧
    (handValidityChange v s).queues = s.queues ∧ (handValidityChange v s).strobes = s.strobes ∧
    (handValidityChange v s).pru = s.pru ∧ (handValidityChange v s).ports = s.ports ∧ (handValidityChange v s).spm = s.spm ∧
    (handValidityChange v s).draws = s.draws ∧ (handValidityChange v s).pending = s.pending := by
  unfold handValidityChange; split <;> simp

end Sys2Proof.Machine
end

