-- ==== Sys2Proof/WellFormed.lean ====
section
/-! DEFINITION. Which commands stand for something that can happen at the pins. -/

namespace Sys2Proof

open Sys2Proof.Machine

/-- The length byte of a REQUEST can name the payload: at most 48 bytes (R170). -/
def wellFormedPayload (payload : List Byte) : Bool := payload.length ≤ maxPayload

/-- UNKNOWN_COMMAND carries a code that is not one of the 22 commands (R177). -/
def wellFormedUnknown (code : Byte) : Bool := (payloadLength code).isNone

/-- FRAME_ERROR ends a transaction that had a rising clock edge (R165). -/
def wellFormedFrame (bytes : List Byte) (bits : Fin 8) : Bool := !(bytes.isEmpty && bits == 0)

/-- A read of the profile image takes up to nine recovery pulses, three bytes sent and 33 bytes received (R160). -/
def wellFormedTransfer (x : ReadTransfer) : Bool :=
  decide (x.recovery.length ≤ 9) && decide (x.acks.length ≤ 3) && decide (x.bytes.length ≤ 33)

/-- A command stands for something that can happen at the pins. -/
def wellFormed (i : Instr) : Bool :=
  match i with
  | .oscillatorTick => true
  | .crystalStop => true
  | .crystalTransition _ => true
  | .leaseExpiry => true
  | .attentionPulseEnd _ => true
  | .strobePulseEnd _ => true
  | .walkVisit => true
  | .endOfWalk => true
  | .selectAssertion _ => true
  | .frameTimeout _ => true
  | .frameError _ bytes bits => wellFormedFrame bytes bits
  | .emptyTransaction _ => true
  | .collect _ _ _ => true
  | .unknownCommand _ code _ payload => wellFormedUnknown code && wellFormedPayload payload
  | .identify _ _ payload => wellFormedPayload payload
  | .selfReset _ _ payload => wellFormedPayload payload
  | .readTime _ _ payload => wellFormedPayload payload
  | .readCalendar _ _ payload => wellFormedPayload payload
  | .claimAuthority _ _ payload => wellFormedPayload payload
  | .releaseAuthority _ _ payload => wellFormedPayload payload
  | .stepTime _ _ payload => wellFormedPayload payload
  | .slewTime _ _ payload => wellFormedPayload payload
  | .setTrim _ _ payload => wellFormedPayload payload
  | .createEntry _ _ payload => wellFormedPayload payload
  | .cancelEntry _ _ payload => wellFormedPayload payload
  | .queryEntry _ _ payload => wellFormedPayload payload
  | .listOwn _ _ payload => wellFormedPayload payload
  | .takeNotices _ _ payload => wellFormedPayload payload
  | .ackNotices _ _ payload => wellFormedPayload payload
  | .readFlags _ _ payload => wellFormedPayload payload
  | .clearFlags _ _ payload => wellFormedPayload payload
  | .setAttention _ _ payload => wellFormedPayload payload
  | .readProfile _ _ payload => wellFormedPayload payload
  | .setProfile _ _ payload => wellFormedPayload payload
  | .setStrobeMap _ _ payload => wellFormedPayload payload
  | .resetPort _ _ payload => wellFormedPayload payload
  | .holdoverEntry => true
  | .settleStart => true
  | .settleAbort => true
  | .resume => true
  | .backupLow => true
  | .backupPresent => true
  | .powerOn _ => true
  | .sysrstnAssertion => true
  | .sysrstnRelease => true
  | .profileLoadComplete x => wellFormedTransfer x

end Sys2Proof
end

