-- ==== Sys2Proof/Tests/Slice0.lean ====
section
/-! SUPPORT. Tests on fixed values, each expected result taken from the spec, and the witnesses of the statements'
hypotheses. -/

namespace Sys2Proof.Tests

-- One test at a time: kernel evaluations of a hundred tests side by side need more threads than the check allows.
set_option Elab.async false

open Sys2Proof Sys2Proof.Machine

/-! ### Small states -/

/-- The state that an outcome answers, or the given state. -/
def after (c : Instr) (s : State) : State :=
  match exec c s with
  | .next t => t
  | _ => s

/-- The part with the profile load complete and the defaults in force. -/
def loaded : State :=
  { State.reset with
    pru := ⟨defaultProfiles, defaultStrobeMap, .defaultAbsent, .ready, .idle, []⟩
    ports := .const ⟨false, .idle, .waiting, []⟩ }

/-- The snapshot of an IDLE port. -/
def idleSnap : Snapshot := ⟨0x40, [0x00, 0x00]⟩

/-- The state with Port A RECEIVING a transaction. -/
def ready (s : State) : State := s.setPort .a ⟨true, .idle, .receiving (s.tbu.mono + 400) idleSnap ⟨[], 0⟩, []⟩

/-- The result of the response that Port A holds. -/
def resultA (s : State) : Option Result :=
  match s.ports.a.state with
  | .done r => some r.result
  | _ => none

/-- The payload of the response that Port A holds. -/
def payloadA (s : State) : List Byte :=
  match s.ports.a.state with
  | .done r => r.payload
  | _ => []

/-- Port A holds a lease of an hour. -/
def leased (s : State) : State := s.setLease (some ⟨.a, s.tbu.mono + 14745600⟩)

/-- A timeline value. -/
def at' (seconds ticks : Nat) : Time := timeOf (seconds * 4096 + ticks)

/-! ### Well-formedness: each check refuses an ill-formed term -/

theorem test_wellFormed_long_payload_refused : wellFormed (.readTime .a 0 (List.replicate 49 0)) = false := by decide
theorem test_wellFormed_known_code_refused : wellFormed (.unknownCommand .a 0x01 0 []) = false := by decide
theorem test_wellFormed_empty_frame_refused : wellFormed (.frameError .a [] 0) = false := by decide
theorem test_wellFormed_long_image_refused :
    wellFormed (.profileLoadComplete ⟨[], [true, true, true], List.replicate 34 0⟩) = false := by decide
theorem test_wellFormed_ten_recovery_pulses_refused :
    wellFormed (.profileLoadComplete ⟨List.replicate 10 false, [], []⟩) = false := by decide
theorem test_wellFormed_four_acknowledges_refused :
    wellFormed (.profileLoadComplete ⟨[], List.replicate 4 true, []⟩) = false := by decide
theorem test_wellFormed_accepts : wellFormed (.unknownCommand .a 0x03 0 (List.replicate 48 0)) = true := by decide

/-! ### Words: no row has bits -/

theorem test_no_word_decodes : decodeTableWord 8 0x01 = none := by decide
theorem test_withFetchWord_keeps : State.withFetchWord State.reset 8 0x01 = State.reset := by rfl

/-! ### Check bytes and frames (10.2, R199) -/

theorem test_crc_of_none_and_pending : crc8 [0x00] = 0x00 ∧ crc8 [0x01] = 0x07 := by decide +kernel
theorem test_crc_of_identify : crc8 [0x01, 0x00, 0x00] = 0x6B := by decide +kernel
theorem test_identify_frame : judgeFrame [0xC3, 0x01, 0x00, 0x00, 0x6B] 0 = .request 0x01 0x00 [] := by decide +kernel
theorem test_frame_with_wrong_check_byte : judgeFrame [0xC3, 0x01, 0x00, 0x00, 0x6A] 0 = .error .crc := by decide +kernel
theorem test_frame_with_wrong_length : judgeFrame [0xC3, 0x01, 0x00, 0x01, 0x6B] 0 = .error .length := by decide +kernel

/-- The image of the example of 10.7. -/
def exampleImage : List Byte :=
  [0x43, 0x54, 0x01, 0x03, 0x00, 0x3C, 0x00, 0x17, 0x18, 0x02, 0x00, 0x3C, 0x18, 0x2F, 0x18, 0x02, 0x00, 0x3C, 0x30, 0x47,
    0x18, 0x02, 0x00, 0x3C, 0x48, 0x5F, 0x18, 0x00, 0x00, 0x00, 0x00, 0x03, 0x6D]

theorem test_example_image_holds_the_defaults : judgeImage exampleImage = some (defaultProfiles, defaultStrobeMap) := by
  decide
theorem test_example_image_is_formed : profileImage defaultProfiles defaultStrobeMap = exampleImage := by decide

/-! ### Calendar (examples of 1.3 and 2.4) -/

theorem test_calendar_before_march_2100 :
    calendarView (at' 3129235199 0) = ⟨⟨2100, 2, 28⟩, 7, 23, 59, 59⟩ := by decide
theorem test_calendar_march_2100 : calendarView (at' 3129235200 0) = ⟨⟨2100, 3, 1⟩, 1, 0, 0, 0⟩ := by decide
theorem test_calendar_last : calendarView (at' 4294967295 4095) = ⟨⟨2137, 2, 7⟩, 4, 6, 28, 15⟩ := by decide

theorem test_next_match_any : nextMatch ⟨none, none, none, none, .any⟩ (at' 1000 4095) = some (at' 1001 0) := by decide
theorem test_next_match_weekdays :
    nextMatch ⟨some 0, some 0, some 6, none, .weekdays 0b0011111⟩ (at' 3003242400 0) = some (at' 3003458400 0) := by
  decide
theorem test_next_match_itself_not :
    nextMatch ⟨some 0, some 0, some 12, some 2, .monthday 29⟩ (at' 3003047999 4095) = some (at' 3003048000 0) := by
  decide

theorem test_first_due_anchor_is_now :
    firstDue (at' 1000 100) (.periodicWall (at' 1000 100) 2048) = some (at' 1000 2148) := by decide
theorem test_first_due_anchor_is_later :
    firstDue (at' 1000 100) (.periodicWall (at' 1005 0) 2048) = some (at' 1005 0) := by decide
theorem test_first_due_old_anchor :
    firstDue (at' 1000 100) (.periodicWall 0 2048) = some (at' 1000 2048) := by decide

/-! ### One step of each command -/

/-- The TBU of the example of 1.5, before its first row. -/
def sloped (mono : Mono) (timeline : Time) (slew : Int) : State :=
  loaded.setTbu ⟨0, mono, timeline, -1, slew, .valid, .running⟩

theorem test_tick_slew_only :
    (after .oscillatorTick (sloped 1048511 (at' 5000 4000) (-2))).tbu = ⟨0, 1048512, at' 5000 4000, -1, -1, .valid, .running⟩ := by
  decide +kernel
theorem test_tick_trim_and_slew :
    (after .oscillatorTick (sloped 1048575 (at' 5000 4063) (-1))).tbu = ⟨0, 1048576, at' 5000 4063, -1, -1, .valid, .running⟩ := by
  decide +kernel
theorem test_tick_completes_slew :
    (after .oscillatorTick (sloped 1048639 (at' 5001 30) (-1))).attn.c.flags = 0b000010010 := by decide +kernel
theorem test_tick_range_end :
    (after .oscillatorTick (sloped 0 lastTime 0)).tbu.validity = .suspect := by decide +kernel

theorem test_crystal_stop :
    (after .crystalStop (sloped 0 0 0)).tbu.monitor = .stopped ∧
      (after .crystalStop (sloped 0 0 0)).attn.d.flags = 0b000010100 := by decide +kernel
theorem test_crystal_transition_eighth_period :
    (after (.crystalTransition true) (loaded.setTbu { loaded.tbu with divider := 7 })).tbu.mono = 1 := by decide +kernel
theorem test_crystal_transition_arms : (after (.crystalTransition false) loaded).tbu.monitor = .running := by decide +kernel

theorem test_lease_expiry :
    (after .leaseExpiry (loaded.setLease (some ⟨.b, 0⟩))).lease = none ∧
      (after .leaseExpiry (loaded.setLease (some ⟨.b, 0⟩))).attn.b.flags = 0b000010001 := by decide +kernel
theorem test_attention_pulse_end :
    (after (.attentionPulseEnd .b) (loaded.setAttn .b ⟨1, .none, 1, .pulse, some 0, .driven⟩)).attn.b.line = .released := by
  decide +kernel
theorem test_strobe_pulse_end :
    (after (.strobePulseEnd .l2) (loaded.setStrobe .l2 (.pulsing 0))).strobes.l2 = .idle := by decide +kernel
theorem test_frame_timeout :
    (after (.frameTimeout .a) (loaded.setPort .a ⟨true, .idle, .receiving 0 idleSnap ⟨[], 0⟩, []⟩)).attn.a.cause = .timeout := by
  decide +kernel

/-- A persistent ONE_SHOT WALL entry of Port A. -/
def oneShot (due : Time) (policy : StepPolicy) : Entry :=
  ⟨.a, 0x1234, .oneShotWall, policy, true, none, true, .armed due, 0, none, none⟩

/-- Port A owns the entry of slot 0. -/
def owning (e : Entry) : State := putSlot 0 (some e) loaded

/-- The AGU walks from 0:0 to 2:0, at a position. -/
def walking (position : Nat) (s : State) : State :=
  setAgendaState (.realigning ⟨.a, 0, at' 2 0, 0, 8192, position, 0, 0, false⟩) s

theorem test_tick_fires_due_entry :
    ((after .oscillatorTick (owning (oneShot 1 .skip))).queues.a.notices.map fun n => (n.handle, n.report.fires)) =
      [(0, 1)] := by decide +kernel
theorem test_walk_visit_skips :
    ((after .walkVisit (walking 0 (owning (oneShot 1 .skip)))).queues.a.notices.map fun n => n.report.reason) =
      [.skipped] := by decide +kernel
theorem test_end_of_walk_fires_late :
    ((after .endOfWalk (walking 96 (owning (oneShot 1 .fireLate)))).queues.a.notices.map fun n => n.report.late) =
      [1] := by decide +kernel

theorem test_select_assertion_status :
    (after (.selectAssertion ⟨.a, []⟩) loaded).ports.a.receiver = .receiving 400 ⟨0x40, [0x00, 0x00]⟩ ⟨[], 0⟩ := by
  decide +kernel
theorem test_select_assertion_stores :
    (after (.selectAssertion ⟨.a, 0xC3 :: List.replicate 59 7⟩) loaded).ports.a.receiver =
        .receiving 400 idleSnap ⟨0xC3 :: List.replicate 52 7, 60⟩ ∧
      (after (.selectAssertion ⟨.a, [0x3C, 1, 2]⟩) loaded).ports.a.receiver = .receiving 400 idleSnap ⟨[0x3C], 3⟩ := by
  decide +kernel
theorem test_frame_error_marker : (after (.frameError .a [0x55] 0) (ready loaded)).attn.a.cause = .marker := by
  decide +kernel
theorem test_empty_transaction : (after (.emptyTransaction .a) (ready loaded)).ports.a.receiver = .waiting := by
  decide +kernel
theorem test_collect_none : (after (.collect .a [0, 0, 0] 0) (ready loaded)).ports.a.dout = [0x40, 0x00, 0x00, 0x00] := by
  decide +kernel
theorem test_discarded_transaction_shifts_zeros_from_the_reset_on :
    (after (.frameError .a [1, 2] 0)
      (after .sysrstnAssertion (after (.selectAssertion ⟨.a, [0xC3]⟩) loaded))).ports.a.dout = [0x40, 0, 0] := by
  decide +kernel
theorem test_offline_port_shifts_nothing :
    (after (.collect .a [0] 0) (after .holdoverEntry (ready loaded))).ports.a.dout = [] := by decide +kernel
theorem test_data_out_drive :
    dataOutDriven (ready loaded).ports.a = true ∧ dataOutDriven loaded.ports.a = false ∧
      dataOutDriven (after .holdoverEntry (ready loaded)).ports.a = false := by decide +kernel
theorem test_unknown_command : resultA (after (.unknownCommand .a 0x03 0 []) (ready loaded)) = some .unknownCommand := by
  decide +kernel
theorem test_identify :
    payloadA (after (.identify .a 9 []) (ready loaded)) = [0x47, 0x4C, 0x01, 0x04, 0x60, 0x10, 0x04, 0x41] := by
  decide +kernel
theorem test_self_reset : (after (.selfReset .a 9 []) (ready loaded)).attn.a.flags = 0b000100000 := by decide +kernel
theorem test_read_time :
    payloadA (after (.readTime .a 9 []) (ready (loaded.setTbu { loaded.tbu with timeline := at' 7200 0 }))) =
      [0, 0, 0x1C, 0x20, 0, 0, 0, 0, 0, 0, 0, 0, 0, 0, 0, 0, 0, 0, 0, 0, 0, 0, 0, 0] := by decide +kernel
theorem test_read_calendar :
    payloadA (after (.readCalendar .a 9 []) (ready (loaded.setTbu { loaded.tbu with timeline := lastTime }))) =
      [0x08, 0x59, 2, 7, 4, 6, 28, 15, 0x0F, 0xFF, 0] := by decide +kernel
theorem test_claim_authority :
    payloadA (after (.claimAuthority .a 9 [0, 60]) (ready loaded)) = [0x01, 0x00, 0x03, 0xC0, 0x00] := by decide +kernel
theorem test_release_authority_not_holder :
    resultA (after (.releaseAuthority .a 9 []) (ready loaded)) = some .notHolder := by decide +kernel
theorem test_step_time_absolute :
    (after (.stepTime .a 9 [0, 0, 0, 0, 0x2A, 0x30, 0, 0]) (ready (leased loaded))).tbu.timeline = at' 10800 0 := by
  decide +kernel
theorem test_step_time_ticks_out_of_range :
    resultA (after (.stepTime .a 9 [0, 0, 0, 0, 0, 0, 0x10, 0]) (ready (leased loaded))) = some .badValue := by
  decide +kernel
theorem test_slew_time : (after (.slewTime .a 9 [0xFF, 0xF0, 0, 0]) (ready (leased loaded))).tbu.slew = -1048576 := by
  decide +kernel
theorem test_set_trim_out_of_range :
    resultA (after (.setTrim .a 9 [0xC0]) (ready (leased loaded))) = some .badValue := by decide +kernel

/-- A CREATE_ENTRY of a PERIODIC WALL entry with anchor 0:0 and this period. -/
def createPeriodic (period : Nat) : List Byte :=
  [0x12, 0x34, 1, 0, 0, 1, 0, 0xFF, 0, 0, 0, 0, 0, 0, 0, 0, 0, 0, 0, 0] ++ toBytes 5 period

theorem test_create_entry :
    payloadA (after (.createEntry .a 9 (createPeriodic 4096)) (ready loaded)) = [0, 0, 0, 0, 1, 0, 0] := by decide +kernel
theorem test_create_entry_short_period :
    resultA (after (.createEntry .a 9 (createPeriodic 15)) (ready loaded)) = some .badValue := by decide +kernel
theorem test_cancel_entry :
    payloadA (after (.cancelEntry .a 9 [0]) (ready (owning (oneShot 1 .skip)))) = [1, 0] := by decide +kernel
theorem test_query_entry :
    payloadA (after (.queryEntry .a 9 [0]) (ready (owning (oneShot 1 .skip)))) =
      [0, 0x41, 0x12, 0x34, 0, 0, 1, 1, 1, 1, 0xFF, 0xFF, 0, 0, 0, 0, 0, 1, 0xFF, 0xFF, 0xFF, 0xFF, 0xFF, 0xFF, 0xFF, 0xFF,
        0xFF, 0xFF, 0xFF, 0xFF, 0xFF, 0xFF, 0xFF, 0xFF, 0xFF, 0xFF, 0xFF, 0xFF, 0, 0, 0xFF, 0xFF, 0xFF] := by decide +kernel
theorem test_list_own : payloadA (after (.listOwn .a 9 []) (ready (owning (oneShot 1 .skip)))) = [1, 0, 0] := by
  decide +kernel

/-- A FIRED notice of slot 0. -/
def notice (seq : Half) (delivered : Bool) : Notice :=
  ⟨seq, 0, 0x1234, ⟨.fired, 1, 0, 0, at' 5 6, at' 7 8, ⟨false, false, false⟩⟩, delivered⟩

/-- Port A's queue holds one notice of its entry. -/
def queued (delivered : Bool) : State := (owning (oneShot 1 .skip)).setQueue .a ⟨[notice 0 delivered], 1⟩

theorem test_take_notices :
    payloadA (after (.takeNotices .a 9 [8]) (ready (queued false))) =
      [1, 0, 0, 0, 0, 0x12, 0x34, 0, 1, 0, 0, 0, 0, 0, 0, 0, 5, 0, 6, 0, 0, 0, 7, 0, 8, 1, 0] := by decide +kernel
theorem test_take_notices_nine : resultA (after (.takeNotices .a 9 [9]) (ready (queued false))) = some .badValue := by
  decide +kernel
theorem test_ack_notices : payloadA (after (.ackNotices .a 9 [0, 0]) (ready (queued true))) = [1, 0, 0] := by
  decide +kernel
theorem test_ack_notices_undelivered :
    resultA (after (.ackNotices .a 9 [0, 0]) (ready (queued false))) = some .badSeq := by decide +kernel

theorem test_read_flags :
    payloadA (after (.readFlags .a 9 []) (ready loaded)) = [0, 0x10, 0, 0, 0, 0, 0, 0, 0, 0] := by decide +kernel
theorem test_clear_flags :
    payloadA (after (.clearFlags .a 9 [0, 0xFF]) (ready loaded)) = [0, 0x10, 0, 0, 0] := by decide +kernel
theorem test_set_attention_pulse_with_rise :
    (after (.setAttention .a 9 [0, 0x10, 1]) (ready loaded)).attn.a.pulseEnd = some 64 := by decide +kernel
theorem test_set_attention_undefined_source :
    resultA (after (.setAttention .a 9 [4, 0, 0]) (ready loaded)) = some .badValue := by decide +kernel
theorem test_read_profile :
    payloadA (after (.readProfile .a 9 [0x44]) (ready loaded)) = [2, 0, 0x3C, 0x48, 0x5F, 0x18, 0, 0, 0, 0, 0, 1] := by
  decide +kernel
theorem test_set_profile_last_admin :
    resultA (after (.setProfile .a 9 [0x41, 2, 0, 60, 0, 23, 24]) (ready loaded)) = some .lastAdmin := by decide +kernel
theorem test_set_strobe_map :
    (after (.setStrobeMap .a 9 [0x81, 0, 0, 4]) (ready loaded)).pru.strobeMap =
      ⟨⟨some .a, .activeLow⟩, ⟨none, .activeHigh⟩, ⟨none, .activeHigh⟩, ⟨some .d, .activeHigh⟩⟩ := by decide +kernel
theorem test_reset_port_other : payloadA (after (.resetPort .a 9 [0x42]) (ready loaded)) = [0x42, 1] := by
  decide +kernel

theorem test_holdover_entry : (after .holdoverEntry loaded).ports.b.state = .offline := by decide +kernel
theorem test_settle_start :
    (after .settleStart (loaded.setSpm ⟨.holdover, .present, false⟩)).spm.supply = .settling 160 := by decide +kernel
theorem test_settle_abort :
    (after .settleAbort (loaded.setSpm ⟨.settling 160, .present, false⟩)).spm.supply = .holdover := by decide +kernel
theorem test_resume : (after .resume (loaded.setSpm ⟨.settling 0, .present, false⟩)).attn.d.flags = 0b000011000 := by
  decide +kernel
theorem test_backup_low : (after .backupLow loaded).attn.b.flags = 0b010010000 := by decide +kernel
theorem test_backup_present :
    (after .backupPresent (loaded.setSpm ⟨.main, .low, false⟩)).spm.backup = .present := by decide +kernel
theorem test_power_on_in_holdover :
    (after (.powerOn ⟨false, true, false, .const false⟩) loaded).pru.load = .waitingSupply := by decide +kernel
theorem test_sysrstn_assertion : (after .sysrstnAssertion loaded).pru.twoWire = .held := by decide +kernel
theorem test_sysrstn_release :
    (after .sysrstnRelease (after .sysrstnAssertion loaded)).spm.resetAsserted = false := by decide +kernel
/-- A read of the profile image begins with CFGSDA low. -/
def recovering : State := State.reset.setPru { State.reset.pru with twoWire := .recovering }

theorem test_profile_load_complete :
    (after (.profileLoadComplete ⟨[], [true, true, true], exampleImage⟩) State.reset).pru.source = .image ∧
      (after (.profileLoadComplete ⟨[], [true, true, true], exampleImage⟩) State.reset).pru.bus.drop 36 =
        [.received 0x03 true, .received 0x6D false, .stop] ∧
      (after (.profileLoadComplete ⟨[true], [true, true, false], []⟩) recovering).pru.bus =
        [.pulse true, .start, .sent 0xA0 true, .sent 0x00 true, .repeatedStart, .sent 0xA1 false, .stop] := by
  decide +kernel
theorem test_profile_load_recovery :
    (after (.profileLoadComplete ⟨List.replicate 9 false, [true, true, true], exampleImage⟩) recovering).pru.source =
        .defaultAbsent ∧
      (after (.profileLoadComplete ⟨List.replicate 8 false ++ [true], [], []⟩) recovering).pru.twoWire = .reading ∧
      (after (.profileLoadComplete ⟨List.replicate 8 false, [], []⟩) recovering).pru.twoWire = .recovering := by
  decide +kernel

/-! ### A part in order -/

/-- A part with one armed entry. -/
def armedPart : State := owning (oneShot 1 .skip)

theorem slot_armedPart (h : Handle) : slot armedPart h = if h = 0 then some (oneShot 1 .skip) else none := by
  have e : slot loaded h = none := by
    revert h; decide +kernel
  simp [armedPart, owning, e]

theorem armedPart_inOrder : InOrder armedPart where
  ports := by intro p; cases p <;> decide
  receivers := by
    intro p
    have : (armedPart.ports.get p).receiver = .waiting := by cases p <;> rfl
    refine ⟨fun _ => ⟨fun _ => ?_, fun _ => this⟩, ?_⟩
    · cases p <;> rfl
    · intro l sn r h; rw [this] at h; cases h
  load := by unfold LoadFollowsSupply; decide
  nothing := by intro h; exact absurd rfl h
  profiles := ⟨by intro p; cases p <;> decide, .a, rfl⟩
  lease := by intro l h; cases h
  quota := by intro p; cases p <;> decide +kernel
  agenda := by
    have ha : armedPart.agu.agenda = [0] := by decide +kernel
    refine ⟨by simp [ha], fun h => ?_, by simp [ha]⟩
    rw [ha, slot_armedPart]
    constructor
    · intro k; exact ⟨oneShot 1 .skip, 1, by simpa using k, rfl⟩
    · rintro ⟨e, d, k, _⟩; split at k <;> simp_all
  dues := by
    intro _ h e d k l
    rw [slot_armedPart] at k
    split at k
    · cases k; cases l; decide
    · cases k
  entries := by
    intro h e k
    rw [slot_armedPart] at k
    split at k
    · next hh =>
      cases k
      subst hh
      refine ⟨?_, ?_, ?_, ?_, ?_, ?_⟩
      · intro a b h; cases h
      · intro a h; cases h
      · intro _; rfl
      · intro r h; cases h
      · intro r h; cases h
      · intro h; cases h
    · cases k
  queues := by
    intro p
    have e : armedPart.queues.get p = ⟨[], 0⟩ := by cases p <;> rfl
    rw [e]
    refine ⟨⟨by decide, by simp [deliveredFirst], by simp, by simp⟩, by simp⟩
  pendingParts := by
    intro h e k
    rw [slot_armedPart] at k
    split at k
    · cases k; exact ⟨fun _ => ⟨rfl, rfl⟩, fun h => absurd rfl h⟩
    · cases k
  references := by
    intro h e k l
    rw [slot_armedPart] at k
    split at k
    · cases k; cases l
    · cases k
  working := by
    intro p
    have e : (armedPart.ports.get p).state = .idle := by cases p <;> rfl
    have w : walkOf armedPart = none := rfl
    simp [e, w]
  held := by
    intro p
    have e : (armedPart.ports.get p).state = .idle := by cases p <;> rfl
    have w : armedPart.agu.held.get p = none := by cases p <;> rfl
    simp [e, w]
  walk := by intro w h; cases h
  lines := by
    intro p
    have e : armedPart.attn.get p = ⟨0b000010000, .none, 0, .level, none, .released⟩ := by cases p <;> rfl
    have c : attnCondition armedPart p = false := by cases p <;> decide +kernel
    simp [e, c]
  causes := by intro p; cases p <;> decide
  strobes := by
    intro l e h
    have : armedPart.strobes.get l = .idle := by cases l <;> rfl
    rw [this] at h; cases h
  steering := by unfold SteeringInRange; decide

/-- A part in order whose walk stands before its end. -/
theorem walking_inOrder : InOrder (walking 96 armedPart) where
  ports := armedPart_inOrder.ports
  receivers := armedPart_inOrder.receivers
  load := armedPart_inOrder.load
  nothing := armedPart_inOrder.nothing
  profiles := armedPart_inOrder.profiles
  lease := armedPart_inOrder.lease
  quota := armedPart_inOrder.quota
  agenda := armedPart_inOrder.agenda
  dues := by intro h; cases h
  entries := armedPart_inOrder.entries
  queues := armedPart_inOrder.queues
  pendingParts := armedPart_inOrder.pendingParts
  references := armedPart_inOrder.references
  working := by
    intro p
    have e : ((walking 96 armedPart).ports.get p).state = .idle := by cases p <;> rfl
    have w : walkOf (walking 96 armedPart) = some ⟨.a, 0, at' 2 0, 0, 8192, 96, 0, 0, false⟩ := rfl
    simp [e, w]
  held := by
    intro p
    have e : ((walking 96 armedPart).ports.get p).state = .idle := by cases p <;> rfl
    have w : (walking 96 armedPart).agu.held.get p = none := by cases p <;> rfl
    simp [e, w]
  walk := by intro w h; cases h; decide
  lines := armedPart_inOrder.lines
  causes := armedPart_inOrder.causes
  strobes := armedPart_inOrder.strobes
  steering := armedPart_inOrder.steering

/-- Port A waits with a command held while the walk stands before its end. -/
def holding (c : AgendaCommand) : State :=
  setHeld .a (some c) (walking 96 (armedPart.setPort .a ⟨false, .working ⟨0x20, 9, [], true⟩, .waiting, []⟩))

theorem holding_inOrder (c : AgendaCommand) : InOrder (holding c) where
  ports := by intro p; cases p <;> simp [holding, walking, armedPart, owning, loaded, setHeld, setAgendaState, PerPort.get,
    PerPort.set, State.setPort, State.setAgu, putSlot, PerPort.const, State.reset]
  receivers := by
    intro p
    have : ((holding c).ports.get p).receiver = .waiting := by cases p <;> rfl
    refine ⟨fun _ => ⟨fun _ => ?_, fun _ => this⟩, ?_⟩
    · cases p <;> rfl
    · intro l sn r h; rw [this] at h; cases h
  load := armedPart_inOrder.load
  nothing := armedPart_inOrder.nothing
  profiles := armedPart_inOrder.profiles
  lease := armedPart_inOrder.lease
  quota := armedPart_inOrder.quota
  agenda := armedPart_inOrder.agenda
  dues := by intro h; cases h
  entries := armedPart_inOrder.entries
  queues := armedPart_inOrder.queues
  pendingParts := armedPart_inOrder.pendingParts
  references := armedPart_inOrder.references
  working := by
    intro p
    have w : walkOf (holding c) = some ⟨.a, 0, at' 2 0, 0, 8192, 96, 0, 0, false⟩ := rfl
    rw [w]
    refine ⟨?_, by rintro ⟨w, h, -, k⟩; cases h; cases k⟩
    rintro ⟨d, h, k⟩
    cases p <;> cases h
    cases k
  held := by
    intro p
    have w : walkOf (holding c) ≠ none := by intro h; cases h
    refine ⟨?_, fun _ => w⟩
    cases p
    · exact ⟨fun _ => ⟨⟨0x20, 9, [], true⟩, rfl, rfl⟩, fun _ h => by cases h⟩
    all_goals exact ⟨fun h => absurd rfl h, by rintro ⟨d, h, -⟩; cases h⟩
  walk := by intro w h; cases h; decide
  lines := armedPart_inOrder.lines
  causes := armedPart_inOrder.causes
  strobes := armedPart_inOrder.strobes
  steering := armedPart_inOrder.steering

/-- Port A waits for the response of its step, whose walk stands before its end. -/
def stepping : State :=
  setAgendaState (.realigning ⟨.a, 0, at' 2 0, 0, 8192, 96, 0, 0, true⟩)
    (armedPart.setPort .a ⟨false, .working ⟨0x14, 9, [], false⟩, .waiting, []⟩)

theorem stepping_inOrder : InOrder stepping where
  ports := by intro p; cases p <;> simp [stepping, armedPart, owning, loaded, setAgendaState, PerPort.get,
    PerPort.set, State.setPort, State.setAgu, putSlot, PerPort.const, State.reset]
  receivers := by
    intro p
    have : (stepping.ports.get p).receiver = .waiting := by cases p <;> rfl
    refine ⟨fun _ => ⟨fun _ => ?_, fun _ => this⟩, ?_⟩
    · cases p <;> rfl
    · intro l sn r h; rw [this] at h; cases h
  load := armedPart_inOrder.load
  nothing := armedPart_inOrder.nothing
  profiles := armedPart_inOrder.profiles
  lease := armedPart_inOrder.lease
  quota := armedPart_inOrder.quota
  agenda := armedPart_inOrder.agenda
  dues := by intro h; cases h
  entries := armedPart_inOrder.entries
  queues := armedPart_inOrder.queues
  pendingParts := armedPart_inOrder.pendingParts
  references := armedPart_inOrder.references
  working := by
    intro p
    have w : walkOf stepping = some ⟨.a, 0, at' 2 0, 0, 8192, 96, 0, 0, true⟩ := rfl
    rw [w]
    cases p
    · exact ⟨fun _ => ⟨_, rfl, rfl, rfl⟩, fun _ => ⟨_, rfl, rfl⟩⟩
    all_goals exact ⟨(by rintro ⟨d, h, -⟩; cases h), (by rintro ⟨w, h, k, -⟩; cases h; cases k)⟩
  held := by
    intro p
    have w : stepping.agu.held.get p = none := by cases p <;> rfl
    refine ⟨⟨fun h => absurd w h, ?_⟩, fun h => absurd w h⟩
    rintro ⟨d, h, k⟩
    cases p <;> cases h
    cases k
  walk := by intro w h; cases h; decide
  lines := armedPart_inOrder.lines
  causes := armedPart_inOrder.causes
  strobes := armedPart_inOrder.strobes
  steering := armedPart_inOrder.steering

/-! ### Witnesses: states and operands that meet the hypotheses of a statement together -/

theorem ready_of {s : State} (h : limitDue (ready s) = false) : Ready .a idleSnap (ready s) :=
  ⟨⟨rfl, _, rfl⟩, rfl, h⟩

theorem exec_after (c : Instr) (s : State) : exec c s = .next (after c s) := by
  cases c <;> rfl

/-- Port A ready, alone; the premise of the statements about its commands. -/
theorem ready_loaded : Ready .a idleSnap (ready loaded) := ready_of (by decide +kernel)

theorem witness_StepRunsTheFrontCommand :
    ({ loaded with pending := [.oscillatorTick] } : State).pending = .oscillatorTick :: [] ∧ loaded.pending = [] :=
  ⟨rfl, rfl⟩

theorem witness_DueLimitsAreTakenFirst :
    takesNoDueLimit .oscillatorTick = false ∧ limitDue (loaded.setLease (some ⟨.b, 0⟩)) = true := by decide +kernel

theorem witness_OneDamagedByteIsCaught :
    ([] : List Byte).length ≤ maxPayload ∧ (requestFrame 0x01 0 []).length = 5 ∧
      (0x02 : Byte) ≠ (requestFrame 0x01 0 [])[1] ∧ (0x00 : Byte) ≠ (requestFrame 0x01 0 [])[4] := by decide +kernel

theorem witness_ProfileImageIsReadBack :
    (∀ p, profileInRange (defaultProfiles.get p) = true) ∧ (∃ p, (defaultProfiles.get p).admin = true) ∧
      32 < (profileImage defaultProfiles defaultStrobeMap).length ∧
      (0xFF : Byte) ≠ (profileImage defaultProfiles defaultStrobeMap)[0] :=
  ⟨by intro p; cases p <;> decide, ⟨.a, rfl⟩, by decide, by decide⟩

theorem witness_CreatePayloadIsReadBack :
    timingInRange (.oneShotWall 0) = true ∧ timingInRange (.oneShotElapsed 1) = true ∧
      timingInRange (.periodicWall lastTime 16) = true ∧ timingInRange (.periodicElapsed 1 16) = true ∧
      timingInRange (.calendar ⟨some 59, some 0, some 23, some 12, .monthday 31⟩) = true ∧
      timingInRange (.calendar ⟨none, none, none, none, .weekdays 0x40⟩) = true ∧
      strobeInRange none = true ∧ strobeInRange (some ⟨.l3, 1⟩) = true := by decide

theorem witness_OscillatorTickMovesTheCounts :
    limitDue armedPart = false ∧ completesSlew armedPart.tbu (ticked armedPart.tbu 1) = false ∧
      (ticked armedPart.tbu 1).validity = armedPart.tbu.validity ∧ dueHead (at' 0 0) armedPart = none ∧
      InOrder armedPart ∧ isRunning armedPart = true ∧ InOrder (walking 96 armedPart) ∧
      limitDue (walking 96 armedPart) = false ∧ isRunning (walking 96 armedPart) = false :=
  ⟨by decide +kernel, by decide +kernel, by decide +kernel, by decide +kernel, armedPart_inOrder, by decide +kernel,
    walking_inOrder, by decide +kernel, by decide +kernel⟩

theorem witness_TrimRunHoldsTrimTicks :
    (-63 : Int).natAbs ≤ 63 ∧ (0 : Mono).toNat % trimRun = 0 ∧ (-63 : Int) ≠ 0 := by decide

theorem witness_CountsMoveOnlyByTheirEvents :
    exec .oscillatorTick armedPart = .next (after .oscillatorTick armedPart) ∧
      (after (.stepTime .a 9 [0, 0, 0, 0, 0, 0, 0, 1]) (ready (leased (sloped 0 5 0)))).tbu.timeline <
        (ready (leased (sloped 0 5 0))).tbu.timeline :=
  ⟨exec_after _ _, by decide +kernel⟩

theorem witness_ReadTimeReportsTheTime :
    Ready .a idleSnap (ready (leased loaded)) ∧ SteeringInRange (ready (leased loaded)) ∧
      LeaseInOrder (ready (leased loaded)) := by
  refine ⟨ready_of (by decide +kernel), by unfold SteeringInRange; decide, ?_⟩
  intro l h
  cases h
  decide +kernel

theorem witness_ReadCalendarReportsTheDate : Ready .a idleSnap (ready loaded) := ready_loaded

theorem witness_CalendarViewIsTheDate :
    secondsOf (at' 5 0) = secondsOf (at' 5 4095) ∧ (2001 : Nat) ≤ 2100 ∧ (2100 : Nat) ≤ 2137 := by decide

theorem witness_SlewAndTrimAreReplaced :
    Ready .a idleSnap (ready (leased loaded)) ∧ isHolder (ready (leased loaded)) .a = true :=
  ⟨ready_of (by decide +kernel), by decide +kernel⟩

theorem witness_CommandsNeedTheirRight :
    Ready .a idleSnap (ready loaded) ∧ isHolder (ready loaded) .a = false ∧
      Ready .a idleSnap (ready (loaded.setPru { loaded.pru with profiles := loaded.pru.profiles.set .a ⟨false, true, 60, 0, 23, 24⟩ })) :=
  ⟨ready_loaded, by decide +kernel, ready_of (by decide +kernel)⟩

theorem witness_StepIsTaken :
    Ready .a idleSnap (ready (leased loaded)) ∧ isHolder (ready (leased loaded)) .a = true ∧
      isRunning (ready (leased loaded)) = true ∧ stepTarget 0 (stepTimePayload 0 0 5 4095) = some (at' 5 4095) ∧
      stepTarget 0 (stepTimePayload 0 0 5 4096) = none ∧ stepTarget 0 (stepTimePayload 1 1 0 1) = none := by
  refine ⟨ready_of (by decide +kernel), ?_⟩
  decide +kernel

theorem witness_CrystalMonitorJudges :
    limitDue loaded = false ∧ loaded.tbu.monitor ≠ .running ∧ loaded.tbu.divider ≠ 7 ∧ limitDue (sloped 0 0 0) = false ∧
      (sloped 0 0 0).tbu.monitor = .running ∧ limitDue (loaded.setTbu { loaded.tbu with divider := 7 }) = false := by
  decide +kernel

theorem witness_LeaseIsClaimedAndReleased :
    Ready .a idleSnap (ready loaded) ∧ isHolder (ready loaded) .a = false ∧
      Ready .a idleSnap (ready (loaded.setLease (some ⟨.b, 5⟩))) ∧ Ready .a idleSnap (ready (leased loaded)) ∧
      (ready (leased loaded)).lease = some ⟨.a, 14745600⟩ :=
  ⟨ready_loaded, by decide +kernel, ready_of (by decide +kernel), ready_of (by decide +kernel), rfl⟩

theorem witness_TimeLimitsExpire :
    (loaded.setLease (some ⟨.b, 0⟩)).lease = some ⟨.b, loaded.tbu.mono⟩ ∧
      ((loaded.setAttn .b ⟨1, .none, 1, .pulse, some 0, .driven⟩).attn.get .b).pulseEnd = some loaded.tbu.mono ∧
      (loaded.attn.get .b).pulseEnd ≠ some loaded.tbu.mono ∧
      (loaded.setStrobe .l2 (.pulsing 0)).strobes.get .l2 = .pulsing loaded.tbu.mono ∧
      loaded.strobes.get .l2 ≠ .pulsing loaded.tbu.mono ∧
      ((loaded.setPort .a ⟨true, .idle, .receiving 0 idleSnap ⟨[], 0⟩, []⟩).ports.get .a).receiver =
        .receiving loaded.tbu.mono idleSnap ⟨[], 0⟩ := by decide +kernel

theorem witness_FiveCommandsAreHeld :
    Ready .a idleSnap (ready (leased (walking 0 loaded))) ∧ isRunning (ready (leased (walking 0 loaded))) = false ∧
      isHolder (ready (leased (walking 0 loaded))) .a = true ∧ Ready .a idleSnap (ready (leased loaded)) ∧
      isRunning (ready (leased loaded)) = true ∧ isHolder (ready (leased loaded)) .a = true :=
  ⟨ready_of (by decide +kernel), by decide +kernel, by decide +kernel, ready_of (by decide +kernel), by decide +kernel,
    by decide +kernel⟩

theorem witness_CreateIsAccepted :
    Ready .a idleSnap (ready loaded) ∧ isRunning (ready loaded) = true ∧ (createPeriodic 4096).length = 25 ∧
      createCodes (createPeriodic 4096) = some ⟨.periodic, .wall, .fireLate, true, false, none⟩ ∧
      createCombination ⟨.periodic, .wall, .fireLate, true, false, none⟩ = true ∧
      timingFields .periodic .wall (createPeriodic 4096) = some (.periodicWall 0 4096) ∧
      firstDue 0 (.periodicWall 0 4096) = some (at' 1 0) ∧ (0 : Time) < at' 1 0 ∧
      ownedCount (ready loaded) .a < ((ready loaded).pru.profiles.get .a).quota.toNat ∧ slot (ready loaded) 0 = none ∧
      inWindow ((ready loaded).pru.profiles.get .a) 0 = true :=
  ⟨ready_loaded, by decide +kernel⟩

/-- Port A may own no slot. -/
def noQuota : State :=
  loaded.setPru { loaded.pru with profiles := loaded.pru.profiles.set .a ⟨true, true, 60, 0, 23, 0⟩ }

/-- Port A may own slots, but its window holds slot 0 alone, which is allocated. -/
def noRoom : State :=
  armedPart.setPru { armedPart.pru with profiles := armedPart.pru.profiles.set .a ⟨true, true, 60, 0, 0, 2⟩ }

theorem witness_CreateIsRefusedInOrder :
    Ready .a idleSnap (ready loaded) ∧ createCodes (List.replicate 25 3) = none ∧
      timingFields .periodic .wall (createPeriodic 15) = none ∧
      createCombination ⟨.calendar, .elapsed, .skip, true, false, none⟩ = false ∧
      neverMatches ⟨none, none, none, some 2, .monthday 30⟩ = true ∧
      firstDue lastTime (.oneShotElapsed 1) = none ∧ Ready .a idleSnap (ready noQuota) ∧
      ((ready noQuota).pru.profiles.get .a).quota.toNat ≤ ownedCount (ready noQuota) .a ∧
      Ready .a idleSnap (ready noRoom) ∧ ownedCount (ready noRoom) .a < ((ready noRoom).pru.profiles.get .a).quota.toNat ∧
      ∀ h, inWindow ((ready noRoom).pru.profiles.get .a) h = true → slot (ready noRoom) h ≠ none := by
  refine ⟨ready_loaded, by decide, by decide, by decide, by decide, by decide, ready_of (by decide +kernel),
    by decide +kernel, ready_of (by decide +kernel), by decide +kernel, by decide +kernel⟩

theorem witness_CancelEndsTheEntry :
    Ready .a idleSnap (ready (owning (oneShot 1 .skip))) ∧ isRunning (ready (owning (oneShot 1 .skip))) = true ∧
      slot (ready (owning (oneShot 1 .skip))) 0 = some (oneShot 1 .skip) ∧
      hasReference (ready (owning (oneShot 1 .skip))) 0 (oneShot 1 .skip) = false ∧
      Ready .a idleSnap (ready (queued false)) ∧
      hasReference (ready (queued false)) 0 (oneShot 1 .skip) = true ∧
      Ready .a idleSnap (ready (owning { oneShot 1 .skip with status := .ended .fired })) := by
  refine ⟨ready_of (by decide +kernel), by decide +kernel, by decide +kernel, by decide +kernel,
    ready_of (by decide +kernel), by decide +kernel, ready_of (by decide +kernel)⟩

theorem witness_QueryReportsTheRecord :
    Ready .a idleSnap (ready (owning (oneShot 1 .skip))) ∧ isRunning (ready (owning (oneShot 1 .skip))) = true ∧
      slot (ready (owning (oneShot 1 .skip))) 0 = some (oneShot 1 .skip) :=
  ⟨ready_of (by decide +kernel), by decide +kernel, by decide +kernel⟩

theorem witness_ListOwnReportsTheSlots :
    Ready .a idleSnap (ready armedPart) ∧ isRunning (ready armedPart) = true ∧ AgendaInOrder (ready armedPart) :=
  ⟨ready_of (by decide +kernel), by decide +kernel, armedPart_inOrder.agenda⟩

theorem witness_WalkVisitTreatsOneSlot :
    limitDue (walking 0 armedPart) = false ∧ walkOf (walking 0 armedPart) = some ⟨.a, 0, at' 2 0, 0, 8192, 0, 0, 0, false⟩ ∧
      slot (walking 0 armedPart) 0 = some (oneShot 1 .skip) ∧
      realigned ⟨.a, 0, at' 2 0, 0, 8192, 0, 0, 0, false⟩ (oneShot 1 .skip) 1 = none ∧
      realigned ⟨.a, 0, at' 2 0, 0, 8192, 0, 0, 0, false⟩ (oneShot 1 .fireLate) 1 = some (1, 0) ∧
      slot (walking 1 armedPart) 1 = none ∧ (oneShot 1 .skip).notify = true ∧ hasRoom (walking 0 armedPart) .a = true := by
  decide +kernel

theorem witness_EndOfWalkCompletesTheStep :
    limitDue (walking 96 armedPart) = false ∧ walkOf (walking 96 armedPart) = some ⟨.a, 0, at' 2 0, 0, 8192, 96, 0, 0, false⟩ ∧
      (∀ p, (walking 96 armedPart).agu.held.get p = none) ∧ InOrder (walking 96 armedPart) ∧
      limitDue (holding .listOwn) = false ∧ InOrder (holding .listOwn) ∧
      (∀ p payload, (holding .listOwn).agu.held.get p ≠ some (.step payload)) ∧
      limitDue (holding (.step [0, 0, 0, 0, 0, 9, 0, 0])) = false ∧ InOrder (holding (.step [0, 0, 0, 0, 0, 9, 0, 0])) ∧
      ((holding .listOwn).ports.get .a).state = .working ⟨0x20, 9, [], true⟩ ∧ limitDue stepping = false ∧
      InOrder stepping ∧ walkOf stepping = some ⟨.a, 0, at' 2 0, 0, 8192, 96, 0, 0, true⟩ ∧
      (∀ p, stepping.agu.held.get p = none) ∧ (stepping.ports.get .a).state = .working ⟨0x14, 9, [], false⟩ ∧
      stepTarget 0 [0, 0, 0, 0, 0, 9, 0, 0] = some (at' 9 0) ∧ stepTarget 0 [0, 0, 0, 0, 0, 9, 0x10, 0] = none := by
  refine ⟨by decide +kernel, by decide +kernel, by intro p; cases p <;> rfl, walking_inOrder, by decide +kernel,
    holding_inOrder _, ?_, by decide +kernel, holding_inOrder _, rfl, by decide +kernel, stepping_inOrder, rfl,
    by intro p; cases p <;> rfl, rfl, by decide, by decide⟩
  intro p payload
  have : (holding .listOwn).agu.held = ⟨some .listOwn, none, none, none⟩ := rfl
  rw [this]
  cases p <;> simp [PerPort.get]

/-- Port A's queue is full, of notices that are delivered or not. -/
def full (delivered : Bool) : State :=
  (owning (oneShot 0 .skip)).setQueue .a
    ⟨(List.range 16).map fun i => notice (BitVec.ofNat 16 i) (delivered || i != 15), 16⟩

theorem witness_FiringReportsAndAdvances :
    slot (owning (oneShot 0 .skip)) 0 = some (oneShot 0 .skip) ∧ firedStatus (oneShot 0 .skip) 0 0 = some (.ended .fired) ∧
      (0 : Time) ≤ at' 2 0 ∧ firedStatus ⟨.a, 0, .periodicElapsed 16, .skip, true, none, true, .armed lastTime, 0, none, none⟩
        lastTime lastTime = none ∧
      hasReference (owning { oneShot 0 .skip with notify := false }) 0 { oneShot 0 .skip with notify := false } = false ∧
      hasRoom (full true) .a = false ∧ ((full true).queues.get .a).notices.any (isOpenFor 0) = false ∧
      ((full false).queues.get .a).notices.any (isOpenFor 0) = true ∧ hasRoom (owning (oneShot 0 .skip)) .a = true := by
  decide +kernel

theorem test_firing_at_full_queue_is_gathered :
    ((slot (fireEntry 0 0 0 false (full true)) 0).bind (·.summary)).map (·.fires) = some 1 := by decide +kernel
theorem test_firing_merges_into_open_notice :
    (((fireEntry 0 0 0 false (full false)).queues.get .a).notices[15]?).map (·.report.fires) = some 2 := by decide +kernel
theorem test_late_firing_advances_against_the_new_value :
    ((fireEntry 0 (at' 3 0) (at' 2 0) true (owning
        ⟨.a, 0, .periodicWall 4096 0, .fireLate, true, none, true, .armed (at' 1 0), 5, none, none⟩)).queues.a.notices.map
      fun n => (n.report.late, n.report.missed)) = [(1, 6)] := by decide +kernel

/-- The map gives line 1 to Port B. -/
def mapped : State :=
  loaded.setPru { loaded.pru with strobeMap := loaded.pru.strobeMap.set .l1 ⟨some .b, .activeHigh⟩ }

theorem witness_PulseRequestIsJudged :
    (mapped.pru.strobeMap.get .l1).owner = some .b ∧ mapped.spm.supply = .main ∧
      (loaded.pru.strobeMap.get .l1).owner ≠ some .b := by decide

/-- A step of a part in order; each of the six statements about such steps has it as its witness. -/
theorem witness_steps_in_order :
    InOrder armedPart ∧ exec .oscillatorTick armedPart = .next (after .oscillatorTick armedPart) :=
  ⟨armedPart_inOrder, exec_after _ _⟩

theorem witness_NoDueEntryIsLeftBehind : InOrder armedPart ∧ exec .oscillatorTick armedPart = .next (after .oscillatorTick armedPart) :=
  witness_steps_in_order

theorem witness_EntriesStayInOrder : InOrder armedPart ∧ exec .oscillatorTick armedPart = .next (after .oscillatorTick armedPart) :=
  witness_steps_in_order

theorem witness_QueuesStayInOrder : InOrder armedPart ∧ exec .oscillatorTick armedPart = .next (after .oscillatorTick armedPart) :=
  witness_steps_in_order

theorem witness_OutputsStayInOrder :
    InOrder armedPart ∧ exec .oscillatorTick armedPart = .next (after .oscillatorTick armedPart) ∧
      exec .holdoverEntry armedPart = .next (after .holdoverEntry armedPart) ∧
      (after .holdoverEntry armedPart).spm.supply ≠ .main ∧ armedPart.strobes.get .l0 = .idle ∧
      (armedPart.setStrobe .l0 (.pulsing 5)).strobes.get .l0 = .pulsing 5 :=
  ⟨armedPart_inOrder, exec_after _ _, exec_after _ _, by decide +kernel, rfl, rfl⟩

/-- The table of R141, and 6.5. -/
theorem test_output_pins :
    strobePinHigh (loaded.setStrobe .l0 (.pulsing 5)) .l0 = true ∧ strobePinHigh loaded .l0 = false ∧
      strobePinHigh (after (.setStrobeMap .a 9 [0, 0, 0, 0x80]) (ready loaded)) .l3 = true ∧
      attnPinLow loaded .a = false ∧ attnPinLow (loaded.setAttn .a ⟨1, .none, 1, .level, none, .driven⟩) .a = true := by
  decide +kernel

theorem witness_AuthorityStaysInOrder : InOrder armedPart ∧ exec .oscillatorTick armedPart = .next (after .oscillatorTick armedPart) :=
  witness_steps_in_order

theorem witness_PortsStayInOrder : InOrder armedPart ∧ exec .oscillatorTick armedPart = .next (after .oscillatorTick armedPart) :=
  witness_steps_in_order

theorem witness_EveryStepKeepsTheOrder :
    InOrder { armedPart with pending := [.oscillatorTick] } ∧
      step { armedPart with pending := [.oscillatorTick] } = .next (after .oscillatorTick armedPart) :=
  ⟨⟨armedPart_inOrder.1, armedPart_inOrder.2, armedPart_inOrder.3, armedPart_inOrder.4, armedPart_inOrder.5,
    armedPart_inOrder.6, armedPart_inOrder.7, armedPart_inOrder.8, armedPart_inOrder.9, armedPart_inOrder.10,
    armedPart_inOrder.11, armedPart_inOrder.12, armedPart_inOrder.13, armedPart_inOrder.14, armedPart_inOrder.15,
    armedPart_inOrder.16, armedPart_inOrder.17, armedPart_inOrder.18, armedPart_inOrder.19, armedPart_inOrder.20⟩,
    exec_after .oscillatorTick armedPart⟩

theorem witness_TakeNoticesDeliversTheFront : Ready .a idleSnap (ready (queued false)) := ready_of (by decide +kernel)

theorem witness_AckNoticesRemovesThroughTheNamed :
    Ready .a idleSnap (ready (queued false)) ∧ (∀ n ∈ ((ready (queued false)).queues.get .a).notices, n.delivered = false) ∧
      Ready .a idleSnap (ready (queued true)) ∧ ((ready (queued true)).queues.get .a).notices[0]? = some (notice 0 true) ∧
      (∀ h, false = true ↔ ∃ e cause, slot armedPart h = some e ∧ e.owner = .a ∧ e.status = .ended cause ∧
        (∀ n ∈ (armedPart.queues.get .a).notices, n.handle ≠ h) ∧ e.summary = none ∧ e.terminal = none) := by
  refine ⟨ready_of (by decide +kernel), by decide +kernel, ready_of (by decide +kernel), by decide +kernel, fun h =>
    ⟨fun k => (by cases k), ?_⟩⟩
  rintro ⟨e, cause, he, -, hs, -⟩
  rw [slot_armedPart] at he
  split at he <;> cases he
  cases hs

/-- Port A attends to its notices in mode PULSE, and an entry of it has a pending summary. -/
def waitingPart : State :=
  updateParts 0 (fun x => { x with summary := some (notice 0 false).report })
    (armedPart.setAttn .a ⟨0, .none, 0x200, .pulse, none, .released⟩)

theorem witness_DrainEmptiesPendingParts :
    hasRoom (drain .a armedPart) .a = true ∧
      ((drain .a armedPart).queues.get .a).notices = (armedPart.queues.get .a).notices ∧
      ((drain .a waitingPart).queues.get .a).notices ≠ (waitingPart.queues.get .a).notices := by decide +kernel

theorem test_drain_starts_attention_pulse : (drain .a waitingPart).attn.a.pulseEnd = some (armedPart.tbu.mono + 64) := by
  decide +kernel

theorem witness_EachFiringIsCountedOnce :
    QueueInOrder (armedPart.queues.get .a) ∧ slot armedPart 0 = some (oneShot 1 .skip) ∧
      (notice 0 false).report.reason = .fired ∧ (notice 0 false).report.fires = 1 :=
  ⟨(armedPart_inOrder.queues .a).1, by decide +kernel, rfl, rfl⟩

/-- Port A attends to its notices in mode PULSE, and its queue holds one. -/
def noticing (delivered : Bool) : State := (queued delivered).setAttn .a ⟨0, .none, 0x200, .pulse, none, .released⟩

theorem witness_HandOverReachesFlagAndLine :
    loaded.spm.supply = .main ∧ (loaded.attn.get .a).mode = .level ∧
      attnCondition (loaded.setAttn .a ⟨0, .none, 2, .pulse, none, .released⟩) .a = false ∧
      attnCondition (handFlag .timeAdjusted .a (loaded.setAttn .a ⟨0, .none, 2, .pulse, none, .released⟩)) .a = true ∧
      attnCondition (noticing false) .a = true ∧ attnCondition (noticing true) .a = false ∧
      attnCondition (replaceQueue .a ⟨[notice 0 true], 1⟩ (noticing false)) .a = false ∧
      attnCondition (replaceQueue .a ⟨[notice 0 false], 1⟩ (noticing true)) .a = true := by
  decide +kernel

theorem witness_ReadFlagsReportsThePort : Ready .a idleSnap (ready armedPart) ∧ LinesFollow (ready armedPart) :=
  ⟨ready_of (by decide +kernel), armedPart_inOrder.lines⟩

theorem witness_ClearFlagsClearsTheNamed :
    Ready .a idleSnap (ready loaded) ∧ 512 ≤ (0x0200 : Half).toNat ∧ (0x01FF : Half).toNat < 512 :=
  ⟨ready_loaded, by decide, by decide⟩

theorem witness_SetAttentionReplacesTheSetup :
    Ready .a idleSnap (ready loaded) ∧ (ready loaded).spm.supply = .main ∧ 1024 ≤ (0x0400 : Half).toNat ∧
      (0x03FF : Half).toNat < 1024 ∧ 1 < (0x02 : Byte).toNat ∧ (0x01 : Byte).toNat ≤ 1 :=
  ⟨ready_loaded, rfl, by decide, by decide, by decide, by decide⟩

theorem witness_ReadProfileReportsTheTables :
    Ready .a idleSnap (ready loaded) ∧ (0x40 : Byte).toNat < 0x41 ∧ 0x44 < (0x45 : Byte).toNat :=
  ⟨ready_loaded, by decide, by decide⟩

theorem witness_TablesAreReplaced :
    Ready .a idleSnap (ready loaded) ∧ ((ready loaded).pru.profiles.get .a).admin = true ∧
      portOfCode 0x45 = none ∧ profileInRange ⟨true, false, 3600, 95, 0, 96⟩ = true ∧
      (∀ q, ((loaded.pru.profiles.set .a ⟨false, true, 1, 0, 0, 0⟩).get q).admin = false) ∧
      Ready .a idleSnap (ready armedPart) ∧ (0 : Byte).toNat < ownedCount (ready armedPart) .a ∧
      strobeRecordOf 0x05 = none :=
  ⟨ready_loaded, rfl, by decide, by decide, by intro q; cases q <;> rfl, ready_of (by decide +kernel), by decide +kernel,
    by decide⟩

theorem witness_ResetCommandsResetThePort :
    Ready .a idleSnap (ready loaded) ∧ ((ready loaded).pru.profiles.get .a).admin = true ∧ Port.b ≠ Port.a :=
  ⟨ready_loaded, rfl, by decide⟩

theorem witness_PortResetClearsThePort :
    QueuesInOrder (outstanding .a idleSnap 0x02 9 [] false (ready armedPart)) ∧
      EntriesInOrder (outstanding .a idleSnap 0x02 9 [] false (ready armedPart)) ∧
      EndedHasReference (outstanding .a idleSnap 0x02 9 [] false (ready armedPart)) ∧
      slot (outstanding .a idleSnap 0x02 9 [] false (ready armedPart)) 0 = some (oneShot 1 .skip) :=
  ⟨armedPart_inOrder.queues, armedPart_inOrder.entries, armedPart_inOrder.references, by decide +kernel⟩

theorem witness_ProfileLoadCompletes :
    limitDue State.reset = false ∧ State.reset.pru.load = .loading ∧ State.reset.pru.twoWire = .reading ∧
      judgeImage (exampleImage.take 33) = some (defaultProfiles, defaultStrobeMap) ∧ 33 ≤ exampleImage.length ∧
      judgeImage ((List.replicate 33 0).take 33) = none ∧ limitDue recovering = false ∧
      recovering.pru.load = .loading ∧ recovering.pru.twoWire = .recovering ∧
      (List.replicate 9 false).take 9 = List.replicate 9 false ∧
      [false, true] <+: [false, true, false] ∧ [false, true] = List.replicate 1 false ++ [true] ∧
      [true, true, false].take 3 = List.replicate 2 true ++ [false] ∧
      limitDue loaded = false ∧ loaded.pru.twoWire = .idle := by decide +kernel

theorem witness_SelectAssertionTakesTheSnapshot :
    limitDue loaded = false ∧ (loaded.ports.get .a).select = false ∧ (loaded.ports.get .a).receiver = .waiting ∧
      (loaded.ports.get .a).state ≠ .offline ∧ ([0xC3, 0x01] : List Byte).head? = some 0xC3 ∧
      ([0x3C, 0x00] : List Byte).head? = some 0x3C ∧ limitDue (ready loaded) = false ∧
      ((ready loaded).ports.get .a).select = true ∧ ((after .holdoverEntry loaded).ports.get .a).select = false ∧
      ((after .holdoverEntry loaded).ports.get .a).state = .offline ∧ limitDue (after .holdoverEntry loaded) = false := by
  decide +kernel

theorem witness_CollectChangesNothing :
    limitDue (ready loaded) = false ∧ ((ready loaded).ports.get .a).state ≠ .offline ∧ Selected .a idleSnap (ready loaded) ∧
      limitDue (after .holdoverEntry (ready loaded)) = false ∧
      ((after .holdoverEntry (ready loaded)).ports.get .a).state = .offline ∧
      ((after .holdoverEntry (ready loaded)).ports.get .a).select = true ∧
      limitDue (after .sysrstnAssertion (ready loaded)) = false ∧
      ((after .sysrstnAssertion (ready loaded)).ports.get .a).receiver = .discarding ∧
      ((after .sysrstnAssertion (ready loaded)).ports.get .a).select = true :=
  ⟨by decide +kernel, by decide +kernel, ⟨rfl, _, rfl⟩, by decide +kernel⟩

/-- Port A is WORKING and RECEIVING. -/
def busy : State :=
  loaded.setPort .a ⟨true, .working ⟨0x20, 9, [], true⟩, .receiving 400 ⟨0x80, [0x01, 0x07]⟩ ⟨[], 0⟩, []⟩

theorem witness_FrameErrorsAreRecorded :
    limitDue (ready loaded) = false ∧ Selected .a idleSnap (ready loaded) ∧
      ([0x55] : List Byte).head? = some 0x55 ∧ ([0xC3] : List Byte).length < 4 ∧
      byteAt [0xC3, 1, 0, 0, 0] 4 ≠ crc8 (([0xC3, 1, 0, 0, 0].drop 1).dropLast) ∧ limitDue busy = false ∧
      Selected .a ⟨0x80, [0x01, 0x07]⟩ busy ∧ (busy.ports.get .a).state = .working ⟨0x20, 9, [], true⟩ ∧
      limitDue (after (.selectAssertion ⟨.a, []⟩) State.reset) = false ∧
      ((after (.selectAssertion ⟨.a, []⟩) State.reset).ports.get .a).state = .notReady ∧
      limitDue (after (.selectAssertion ⟨.a, [0xC3]⟩) loaded) = false ∧
      ((after (.selectAssertion ⟨.a, [0xC3]⟩) loaded).ports.get .a).state ≠ .offline ∧
      ((after (.selectAssertion ⟨.a, [0xC3]⟩) loaded).ports.get .a).select = true ∧
      ((after (.selectAssertion ⟨.a, [0xC3]⟩) loaded).ports.get .a).receiver = .receiving 400 idleSnap ⟨[0xC3], 1⟩ ∧
      ((after (.selectAssertion ⟨.a, [0x3C, 1, 2]⟩) loaded).ports.get .a).receiver =
        .receiving 400 idleSnap ⟨[0x3C], ([0x3C, 1, 2] : List Byte).length⟩ :=
  ⟨by decide +kernel, ⟨rfl, _, rfl⟩, rfl, by decide, by decide +kernel, by decide +kernel, ⟨rfl, _, rfl⟩, rfl,
    by decide +kernel⟩

theorem witness_IdentifyAnswers : Ready .a idleSnap (ready loaded) := ready_loaded

theorem witness_UnknownAndMislengthedAreAnswered :
    Ready .a idleSnap (ready loaded) ∧ (∀ x ∈ commandTable, x.code ≠ 0x03) ∧ ⟨0x53, 1, .resetPort⟩ ∈ commandTable ∧
      (List.replicate 48 (0 : Byte)).length ≤ 48 :=
  ⟨ready_loaded, by simp [commandTable], by simp [commandTable], by decide⟩

theorem witness_HoldoverEntryDropsThePorts :
    limitDue loaded = false ∧ loaded.spm.supply = .main ∧ limitDue (after .holdoverEntry loaded) = false ∧
      (after .holdoverEntry loaded).spm.supply ≠ .main := by decide +kernel

theorem witness_SupplyRowsMoveTheirState :
    limitDue (after .holdoverEntry loaded) = false ∧ (after .holdoverEntry loaded).spm.supply = .holdover ∧
      (after .holdoverEntry loaded).spm.backup = .present ∧
      (loaded.setSpm ⟨.settling 160, .low, false⟩).spm.supply = .settling 160 ∧
      limitDue (loaded.setSpm ⟨.settling 160, .low, false⟩) = false := by decide +kernel

theorem witness_ResumeReturnsThePorts :
    (loaded.setSpm ⟨.settling 0, .present, false⟩).spm.supply = .settling loaded.tbu.mono ∧
      loaded.spm.supply ≠ .settling loaded.tbu.mono := by decide

theorem witness_PowerOnStartsEveryBlock :
    (⟨true, true, true, .const true⟩ : PowerLevels).vddHigh = true ∧
      (⟨false, false, false, .const false⟩ : PowerLevels).vddHigh = false := by decide

theorem witness_ResetInputResetsTheSystem :
    limitDue loaded = false ∧ loaded.spm.resetAsserted = false ∧ loaded.spm.supply = .main ∧
      limitDue (after .sysrstnAssertion loaded) = false ∧ (after .sysrstnAssertion loaded).spm.resetAsserted = true ∧
      (after .sysrstnAssertion loaded).pru.twoWire = .held ∧ limitDue (after .holdoverEntry loaded) = false ∧
      (after .holdoverEntry loaded).spm.resetAsserted = false ∧
      limitDue (after .sysrstnAssertion (after .holdoverEntry loaded)) = false ∧
      (after .sysrstnAssertion (after .holdoverEntry loaded)).spm.resetAsserted = true ∧
      (after .sysrstnAssertion (after .holdoverEntry loaded)).spm.supply ≠ .main ∧
      limitDue (loaded.setSpm ⟨.main, .present, true⟩) = false ∧
      (loaded.setSpm ⟨.main, .present, true⟩).spm.resetAsserted = true ∧
      (loaded.setSpm ⟨.main, .present, true⟩).pru.twoWire ≠ .held := by decide +kernel

end Sys2Proof.Tests
end

section
/-! PROOFS. What READ_TIME reports. -/

namespace Sys2Proof.Machine

/-! ### Numbers at an offset of a payload -/

/-- A number that stands after other bytes. -/
theorem numField_append_right {l k : List Byte} {o n : Nat} (h : l.length ≤ o) :
    numField (l ++ k) o n = numField k (o - l.length) n := by
  rw [numField, field_append_right h, numField]

theorem numField_cons_succ (x : Byte) (l : List Byte) (o n : Nat) : numField (x :: l) (o + 1) n = numField l o n := rfl

/-- A number that fits and stands at the front is read back (R198). -/
theorem numField_toBytes_append {n x : Nat} (k : List Byte) (h : x < 256 ^ n) : numField (toBytes n x ++ k) 0 n = x := by
  rw [numField, field_append_left (toBytes_length n x), ofBytes_toBytes_of_lt h]

@[simp] theorem signedBytes_length (n : Nat) (x : Int) : (signedBytes n x).length = n := toBytes_length _ _

/-- A signed field at the front is its bytes. -/
theorem field_signedBytes_append (n : Nat) (x : Int) (k : List Byte) :
    field (signedBytes n x ++ k) 0 n = signedBytes n x := field_append_left (signedBytes_length n x)

/-! ### The ranges of what READ_TIME reports -/

/-- A timeline value holds its seconds in 32 bits (R4). -/
theorem secondsOf_lt (t : Time) : secondsOf t < 256 ^ 4 := by
  have := t.isLt
  simp only [secondsOf]
  omega

/-- A tick field is below the ticks of a second (R4). -/
theorem ticksOf_lt (t : Time) : ticksOf t < 4096 := Nat.mod_lt _ (by decide)

/-- A lease in order runs for at most an hour more, so that its rest fits in four bytes (R113, R122). -/
theorem remainingLease_lt {s : State} (h : LeaseInOrder s) : remainingLease s < 256 ^ 4 := by
  unfold remainingLease
  cases hl : s.lease with
  | none => simp
  | some l =>
    obtain ⟨-, hour, -⟩ := h l hl
    simp only [leaseTicks] at hour
    simp only
    omega

/-! ### READ_TIME -/

/-- The response payload of READ_TIME (R22, 10.4). -/
def readTimeBytes (s : State) : List Byte :=
  toBytes 4 (secondsOf s.tbu.timeline) ++ (toBytes 2 (ticksOf s.tbu.timeline) ++ (toBytes 6 s.tbu.mono.toNat ++
    (validityCode s.tbu.validity :: (signedBytes 4 s.tbu.slew ++ (signedBytes 1 s.tbu.trim ++
      (holderCode (s.lease.map (·.holder)) :: (toBytes 4 (remainingLease s) ++ [agendaStateCode s])))))))

/-- READ_TIME completes at once with its response payload (R22). -/
theorem runReadTime_eq (p : Port) (s : State) : runReadTime p s = complete p .ok (readTimeBytes s) s := by
  simp [runReadTime, readTimeBytes, timeBytes]

/-- An outstanding command does not show in what READ_TIME reports. -/
@[simp] theorem readTimeBytes_outstanding (p : Port) (snap : Snapshot) (code seq : Byte) (payload : List Byte)
    (held : Bool) (s : State) : readTimeBytes (outstanding p snap code seq payload held s) = readTimeBytes s := by
  simp [readTimeBytes, agendaStateCode]

/-- A ready port is answered at once with the response payload of READ_TIME, and nothing else changes (R22). -/
theorem exec_readTime {p : Port} {snap : Snapshot} {s : State} (seq : Byte) (h : Ready p snap s) :
    exec (.readTime p seq []) s = .next (answered p snap 0x10 seq [] .ok (readTimeBytes s) s) := by
  have sent := sendRequest_runs (code := codeReadTime) seq h (payload := []) rfl
  calc exec (.readTime p seq []) s
      = .next (sendRequest p codeReadTime seq [] (takeDueLimits s)) := rfl
    _ = .next (answered p snap codeReadTime seq [] .ok (readTimeBytes s) s) := by
        rw [sent, runCommand_readTime, runReadTime_eq, readTimeBytes_outstanding, complete_outstanding]

theorem readTimeBytes_length (s : State) : (readTimeBytes s).length = 24 := by
  simp [readTimeBytes]

/-- The timeline value and the monotonic count stand in the first twelve bytes (10.4). -/
theorem readTimeBytes_counts (s : State) :
    numField (readTimeBytes s) 0 4 = secondsOf s.tbu.timeline ∧ numField (readTimeBytes s) 4 2 = ticksOf s.tbu.timeline ∧
      numField (readTimeBytes s) 6 6 = s.tbu.mono.toNat := by
  have seconds := secondsOf_lt s.tbu.timeline
  have ticks : ticksOf s.tbu.timeline < 256 ^ 2 := (ticksOf_lt _).trans (by decide)
  have mono : s.tbu.mono.toNat < 256 ^ 6 := s.tbu.mono.isLt
  refine ⟨numField_toBytes_append _ seconds, ?_, ?_⟩
  · simp [readTimeBytes, numField_append_right, numField_toBytes_append _ ticks]
  · simp [readTimeBytes, numField_append_right, numField_toBytes_append _ mono]

/-- The single bytes are the codes of validity, holder and agenda state (10.4). -/
theorem readTimeBytes_codes (s : State) :
    byteAt (readTimeBytes s) 12 = validityCode s.tbu.validity ∧
      byteAt (readTimeBytes s) 18 = holderCode (s.lease.map (·.holder)) ∧
      byteAt (readTimeBytes s) 23 = agendaStateCode s := by
  simp [readTimeBytes, byteAt_append_right]

/-- The signed fields are the bytes of slew remaining and trim (10.4). -/
theorem readTimeBytes_signed (s : State) :
    field (readTimeBytes s) 13 4 = signedBytes 4 s.tbu.slew ∧ field (readTimeBytes s) 17 1 = signedBytes 1 s.tbu.trim := by
  simp [readTimeBytes, field_append_right, field_cons_succ, field_signedBytes_append]

/-- Slew remaining and trim in their ranges are read back (R10, R13, 10.4). -/
theorem readTimeBytes_steering {s : State} (h : SteeringInRange s) :
    ofSignedBytes (field (readTimeBytes s) 13 4) = s.tbu.slew ∧
      ofSignedBytes (field (readTimeBytes s) 17 1) = s.tbu.trim := by
  obtain ⟨slew, trim⟩ := readTimeBytes_signed s
  obtain ⟨trimLo, trimHi, slewLo, slewHi⟩ := h
  simp only [maxTrim, maxSlew] at trimLo trimHi slewLo slewHi
  rw [slew, trim]
  exact ⟨ofSignedBytes_signedBytes (by omega) (by omega), ofSignedBytes_signedBytes (by omega) (by omega)⟩

/-- The remaining lease of a lease in order is read back (R113, 10.4). -/
theorem readTimeBytes_lease {s : State} (h : LeaseInOrder s) : numField (readTimeBytes s) 19 4 = remainingLease s := by
  simp [readTimeBytes, numField_append_right, numField_cons_succ, numField_toBytes_append _ (remainingLease_lt h)]

/-- The agenda state code tells RUNNING from REALIGNING (10.4). -/
theorem agendaStateCode_eq (s : State) : agendaStateCode s = if isRunning s then 0x00 else 0x01 := rfl

/-- Settles O10: the response is formed from one state and read back field by field. -/
theorem readTimeReportsTheTime : Obligations.ReadTimeReportsTheTime := by
  intro p snap s seq ready steering lease
  obtain ⟨seconds, ticks, mono⟩ := readTimeBytes_counts s
  obtain ⟨validity, holder, agenda⟩ := readTimeBytes_codes s
  obtain ⟨slew, trim⟩ := readTimeBytes_steering steering
  exact ⟨readTimeBytes s, exec_readTime seq ready, readTimeBytes_length s, seconds, ticks, mono, validity, slew, trim,
    holder, readTimeBytes_lease lease, agenda.trans (agendaStateCode_eq s)⟩

end Sys2Proof.Machine
end

section
/-! PROOFS. The calendar view of a timeline value. -/

namespace Sys2Proof.Machine

/-! ### Counting spans off a number of days -/

/-- What is left of `d` days when whole spans, from span `i` on, are counted off, at most `fuel` of them: `splitYears` and
`splitMonths` for any lengths of the spans. -/
def countOff (len : Nat → Nat) : Nat → Nat → Nat → Nat × Nat
  | 0, i, d => (i, d)
  | fuel + 1, i, d => if d < len i then (i, d) else countOff len fuel (i + 1) (d - len i)

theorem splitYears_eq_countOff (fuel y d : Nat) : splitYears fuel y d = countOff yearDays fuel y d := by
  induction fuel generalizing y d with
  | zero => rfl
  | succ fuel ih => simp only [splitYears, countOff, ih]

theorem splitMonths_eq_countOff (y fuel m d : Nat) : splitMonths y fuel m d = countOff (monthDays y) fuel m d := by
  induction fuel generalizing m d with
  | zero => rfl
  | succ fuel ih => simp only [splitMonths, countOff, ih]

/-- The spans counted off and the rest make up the days; the rest lies within its span unless the fuel ran out. -/
theorem countOff_spec (len : Nat → Nat) (fuel i d : Nat) :
    ∃ k ≤ fuel, (countOff len fuel i d).1 = i + k ∧
      ((List.range' i k).map len).sum + (countOff len fuel i d).2 = d ∧
      (k < fuel → (countOff len fuel i d).2 < len (i + k)) := by
  induction fuel generalizing i d with
  | zero => exact ⟨0, le_rfl, by simp [countOff]⟩
  | succ fuel ih =>
    by_cases hd : d < len i
    · exact ⟨0, Nat.zero_le _, by simp [countOff, hd]⟩
    · obtain ⟨k, hk, index, total, within⟩ := ih (i + 1) (d - len i)
      refine ⟨k + 1, by omega, ?_⟩
      simp only [countOff, hd, if_false, List.range'_succ, List.map_cons, List.sum_cons]
      have shift : i + 1 + k = i + (k + 1) := by omega
      rw [shift] at index within
      exact ⟨index, by omega, fun h => within (by omega)⟩

/-! ### Years and months -/

/-- February makes the length of a year (R8). -/
theorem monthDays_list (y : Nat) :
    (List.range' 1 12).map (monthDays y) = [31, yearDays y - 337, 31, 30, 31, 30, 31, 31, 30, 31, 30, 31] := by
  cases h : isLeap y <;> simp [List.range', monthDays, yearDays, h]

/-- A leap year is divisible by 4, except 2100 (R8). -/
theorem yearDays_eq (y : Nat) : yearDays y = if y % 4 = 0 ∧ y ≠ 2100 then 366 else 365 := by
  simp [yearDays, isLeap]

/-- December closes the year (R8). -/
theorem daysBeforeMonth_december (y : Nat) : daysBeforeMonth y 12 + 31 = yearDays y := by
  cases h : isLeap y <;> simp [daysBeforeMonth, List.range', monthDays, yearDays, h]

/-- The last year of the range begins with day number 49673 (R8). -/
theorem daysBeforeYear_last : daysBeforeYear 2137 = 49673 := by decide +kernel

/-- March of the last year begins 59 days into it (R8). -/
theorem daysBeforeMonth_last {m : Nat} (lo : 3 ≤ m) (hi : m ≤ 12) : 59 ≤ daysBeforeMonth 2137 m := by
  have all : ∀ m ≤ 12, 3 ≤ m → 59 ≤ daysBeforeMonth 2137 m := by decide
  exact all m hi lo

/-! ### The date of a day number -/

/-- A date of the calendar from 2001 on (R8). -/
structure IsDate (date : Date) : Prop where
  year : 2001 ≤ date.year ∧ date.year ≤ 2137
  month : 1 ≤ date.month ∧ date.month ≤ 12
  day : 1 ≤ date.day ∧ date.day ≤ monthDays date.year date.month

/-- The days from 2001-01-01 to a date (R8). -/
def Date.dayNumber (date : Date) : Nat :=
  daysBeforeYear date.year + daysBeforeMonth date.year date.month + (date.day - 1)

/-- The years of a day number in range, and the days left, which lie within the year, and by 7 February in 2137 (R8). -/
theorem splitYears_spec {n : Nat} (hn : n ≤ lastDay) :
    ∃ y d, splitYears 136 2001 n = (y, d) ∧ 2001 ≤ y ∧ y ≤ 2137 ∧ daysBeforeYear y + d = n ∧ d < yearDays y ∧
      (y = 2137 → d ≤ 37) := by
  obtain ⟨k, hk, index, total, within⟩ := countOff_spec yearDays 136 2001 n
  rw [← splitYears_eq_countOff] at index total within
  have before : daysBeforeYear (2001 + k) = ((List.range' 2001 k).map yearDays).sum := by
    simp [daysBeforeYear]
  refine ⟨2001 + k, (splitYears 136 2001 n).2, Prod.ext index rfl, by omega, by omega, by omega, ?_⟩
  by_cases last : k < 136
  · exact ⟨within last, fun h => by omega⟩
  · obtain rfl : k = 136 := by omega
    rw [daysBeforeYear_last] at before
    simp only [lastDay] at hn
    have days : yearDays (2001 + 136) = 365 := by decide
    exact ⟨by omega, fun _ => by omega⟩

/-- The months of the days of a year, and the days left, which lie within the month (R8). -/
theorem splitMonths_spec {y d : Nat} (hd : d < yearDays y) :
    ∃ m j, splitMonths y 11 1 d = (m, j) ∧ 1 ≤ m ∧ m ≤ 12 ∧ daysBeforeMonth y m + j = d ∧ j < monthDays y m := by
  obtain ⟨k, hk, index, total, within⟩ := countOff_spec (monthDays y) 11 1 d
  rw [← splitMonths_eq_countOff] at index total within
  have before : daysBeforeMonth y (1 + k) = ((List.range' 1 k).map (monthDays y)).sum := by
    simp [daysBeforeMonth]
  refine ⟨1 + k, (splitMonths y 11 1 d).2, Prod.ext index rfl, by omega, by omega, by omega, ?_⟩
  by_cases last : k < 11
  · exact within last
  · obtain rfl : k = 11 := by omega
    have december : daysBeforeMonth y (1 + 11) + 31 = yearDays y := daysBeforeMonth_december y
    have length : monthDays y (1 + 11) = 31 := rfl
    omega

/-- The date of a day number in range is a date, its day number is the given one, and it is by 7 February in 2137 (R8). -/
theorem dateOf_spec {n : Nat} (hn : n ≤ lastDay) :
    IsDate (dateOf n) ∧ (dateOf n).dayNumber = n ∧
      ((dateOf n).year = 2137 → (dateOf n).month = 1 ∨ (dateOf n).month = 2 ∧ (dateOf n).day ≤ 7) := by
  obtain ⟨y, d, years, yearLo, yearHi, total, within, last⟩ := splitYears_spec hn
  obtain ⟨m, j, months, monthLo, monthHi, dayTotal, dayWithin⟩ := splitMonths_spec within
  have date : dateOf n = ⟨y, m, j + 1⟩ := by simp only [dateOf, years, months]
  rw [date]
  refine ⟨⟨⟨yearLo, yearHi⟩, ⟨monthLo, monthHi⟩, ⟨by simp, dayWithin⟩⟩, ?_, ?_⟩
  · simp only [Date.dayNumber]
    omega
  · rintro rfl
    have early := last rfl
    simp only
    obtain rfl | rfl | late : m = 1 ∨ m = 2 ∨ 3 ≤ m := by omega
    · exact .inl rfl
    · have january : daysBeforeMonth 2137 2 = 31 := by decide
      omega
    · have := daysBeforeMonth_last late monthHi
      omega

/-! ### The calendar view -/

/-- The day number of a timeline value lies in the range (R4, R8). -/
theorem dayNumber_le (t : Time) : secondsOf t / 86400 ≤ lastDay := by
  have := secondsOf_lt t
  simp only [lastDay]
  omega

/-- The calendar view depends on the seconds alone (R7). -/
theorem calendarView_congr {t u : Time} (h : secondsOf t = secondsOf u) : calendarView t = calendarView u := by
  simp only [calendarView, h]

/-- The second of the minute is counted within the hour (R7). -/
theorem calendarView_second (t : Time) : (calendarView t).second = secondsOf t % 86400 % 3600 % 60 := by
  simp only [calendarView]
  omega

/-- Settles O12: the years, and then the months, are counted off the day number. -/
theorem calendarViewIsTheDate : Obligations.CalendarViewIsTheDate := by
  refine ⟨fun t => ?_, fun _ _ => calendarView_congr, fun y _ _ => ⟨yearDays_eq y, monthDays_list y⟩, by decide, by decide⟩
  obtain ⟨⟨year, month, day⟩, number, last⟩ := dateOf_spec (dayNumber_le t)
  exact ⟨rfl, rfl, calendarView_second t, rfl, year.1, year.2, month.1, month.2, day.1, day.2, number, last⟩

end Sys2Proof.Machine
end

section
/-! PROOFS. What CLAIM_AUTHORITY and RELEASE_AUTHORITY do to the lease (05_time_authority.md). -/

namespace Sys2Proof.Machine

/-- A number that fits is read back from its own bytes (R198). -/
theorem numField_toBytes {n x : Nat} (h : x < 256 ^ n) : numField (toBytes n x) 0 n = x := by
  simpa using numField_toBytes_append [] h

/-- The remaining lease of a held lease is its end less the monotonic count (R113). -/
theorem remainingLease_of_held {s : State} {l : Lease} (held : s.lease = some l) :
    remainingLease s = (l.endAt - s.tbu.mono).toNat := by
  simp [remainingLease, remaining, held]

/-- The state in which a port holds the lease for a duration in seconds from now (R112, R115). -/
def leaseFor (p : Port) (d : Nat) (s : State) : State :=
  { s with lease := some ⟨p, s.tbu.mono + BitVec.ofNat 48 (d * 4096)⟩ }

/-! ### The outcomes of CLAIM_AUTHORITY, in the order of its checks (R114, R115) -/

section Claim
variable {p : Port} {payload : List Byte} {d : Nat} {s : State}

theorem runClaimAuthority_of_no_right (right : (s.pru.profiles.get p).maySteer = false) :
    runClaimAuthority p payload s = complete p .notPermitted [] s := by
  simp [runClaimAuthority, right]

theorem runClaimAuthority_of_bad_duration (right : (s.pru.profiles.get p).maySteer = true)
    (duration : numField payload 0 2 = d) (bad : d = 0 ∨ (s.pru.profiles.get p).maxLease.toNat < d) :
    runClaimAuthority p payload s = complete p .badValue [] s := by
  simp [runClaimAuthority, right, duration, bad]

/-- Past the checks of the right and of the duration the present lease decides (R115). -/
theorem runClaimAuthority_of_allowed (right : (s.pru.profiles.get p).maySteer = true)
    (duration : numField payload 0 2 = d) (allowed : ¬ (d = 0 ∨ (s.pru.profiles.get p).maxLease.toNat < d)) :
    (s.lease = none →
      runClaimAuthority p payload s = complete p .ok ([0x01] ++ toBytes 4 (d * 4096)) (leaseFor p d s)) ∧
    (∀ l, s.lease = some l → l.holder = p →
      runClaimAuthority p payload s = complete p .ok ([0x02] ++ toBytes 4 (d * 4096)) (leaseFor p d s)) ∧
    (∀ l, s.lease = some l → l.holder ≠ p →
      runClaimAuthority p payload s =
        complete p .heldByOther ([portCode l.holder] ++ toBytes 2 (((l.endAt - s.tbu.mono).toNat + 4095) / 4096)) s) := by
  refine ⟨fun free => ?_, fun l held own => ?_, fun l held other => ?_⟩
  · simp [runClaimAuthority, right, duration, allowed, free, leaseFor, leaseTicks, State.setLease]
  · simp [runClaimAuthority, right, duration, allowed, held, own, leaseFor, leaseTicks, State.setLease]
  · simp [runClaimAuthority, right, duration, allowed, held, other, remainingSeconds, remainingLease_of_held held]

end Claim

/-! ### The outcomes of RELEASE_AUTHORITY (R117) -/

theorem runReleaseAuthority_of_own {p : Port} {s : State} {l : Lease} (held : s.lease = some l) (own : l.holder = p) :
    runReleaseAuthority p s = complete p .ok (toBytes 4 (l.endAt - s.tbu.mono).toNat) { s with lease := none } := by
  have holder : isHolder s p = true := (isHolder_eq_true s p).mpr ⟨l, held, own⟩
  rw [runReleaseAuthority, if_pos holder, remainingLease_of_held held, State.setLease]

theorem runReleaseAuthority_of_other {p : Port} {s : State} (other : isHolder s p = false) :
    runReleaseAuthority p s = complete p .notHolder [] s := by
  simp [runReleaseAuthority, other]

/-! ### The two commands at a ready port -/

section Sent
variable {p : Port} {snap : Snapshot} {s : State} (seq : Byte)

/-- A ready port hands CLAIM_AUTHORITY to the Authority Arbiter, not held (R177, R178). -/
theorem exec_claimAuthority {payload : List Byte} (ready : Ready p snap s) (length : payload.length = 2) :
    exec (.claimAuthority p seq payload) s =
      .next (runClaimAuthority p payload (outstanding p snap 0x12 seq payload false s)) := by
  have known : payloadLength codeClaimAuthority = some payload.length := by rw [length]; rfl
  exact congrArg Host.Outcome.next (sendRequest_runs seq ready known)

/-- A ready port hands RELEASE_AUTHORITY to the Authority Arbiter, not held (R177, R178). -/
theorem exec_releaseAuthority (ready : Ready p snap s) :
    exec (.releaseAuthority p seq []) s = .next (runReleaseAuthority p (outstanding p snap 0x13 seq [] false s)) := by
  have known : payloadLength codeReleaseAuthority = some ([] : List Byte).length := rfl
  exact congrArg Host.Outcome.next (sendRequest_runs seq ready known)

end Sent

/-- A command that is answered once the lease has been given leaves the lease given (R115, R179). -/
theorem complete_leaseFor_outstanding (p q : Port) (snap : Snapshot) (code seq : Byte) (payload : List Byte) (held : Bool)
    (r : Result) (out : List Byte) (d : Nat) (s : State) :
    complete p r out (leaseFor q d (outstanding p snap code seq payload held s)) =
      answered p snap code seq payload r out (leaseFor q d s) :=
  complete_outstanding p snap code seq payload held r out (leaseFor q d s)

/-- A command that is answered once the lease has been given up leaves no lease (R117, R179). -/
theorem complete_noLease_outstanding (p : Port) (snap : Snapshot) (code seq : Byte) (payload : List Byte) (held : Bool)
    (r : Result) (out : List Byte) (s : State) :
    complete p r out { outstanding p snap code seq payload held s with lease := none } =
      answered p snap code seq payload r out { s with lease := none } :=
  complete_outstanding p snap code seq payload held r out { s with lease := none }

/-- Settles O18: CLAIM_AUTHORITY is split by its checks in their order and then by the present lease, RELEASE_AUTHORITY by
the holder. -/
theorem leaseIsClaimedAndReleased : Obligations.LeaseIsClaimedAndReleased := by
  intro p snap s seq ready
  refine ⟨fun d fits => ?_, fun l held own => ?_, fun other => ?_⟩
  · have duration : numField (toBytes 2 d) 0 2 = d := numField_toBytes fits
    rw [exec_claimAuthority seq ready (toBytes_length 2 d)]
    congr 1
    split_ifs with noRight bad
    · rw [runClaimAuthority_of_no_right (by simpa using noRight), complete_outstanding]
    · rw [runClaimAuthority_of_bad_duration (by simpa using noRight) duration (by simpa using bad), complete_outstanding]
    · obtain ⟨onFree, onOwn, onOther⟩ := runClaimAuthority_of_allowed (p := p)
        (s := outstanding p snap 0x12 seq (toBytes 2 d) false s) (by simpa using noRight) duration (by simpa using bad)
      simp only [outstanding_frame, complete_leaseFor_outstanding, complete_outstanding] at onFree onOwn onOther
      cases lease : s.lease with
      | none => exact onFree lease
      | some l =>
        by_cases own : l.holder = p
        · exact (onOwn l lease own).trans (if_pos own).symm
        · exact (onOther l lease own).trans (if_neg own).symm
  · rw [exec_releaseAuthority seq ready, runReleaseAuthority_of_own (l := l) (by simpa using held) own,
      complete_noLease_outstanding, (outstanding_frame ..).1]
  · rw [exec_releaseAuthority seq ready, runReleaseAuthority_of_other (by simpa using other), complete_outstanding]

end Sys2Proof.Machine
end

section
/-! PROOFS. What READ_FLAGS reports. -/

namespace Sys2Proof.Machine

/-! ### The pulse remaining -/

theorem mem_allPorts (p : Port) : p ∈ allPorts := by cases p <;> decide

/-- Where no time limit is due, no attention pulse is due to end (R3). -/
theorem attnPulseDue_of_limitDue {s : State} (none_due : limitDue s = false) (p : Port) : attnPulseDue s p = false := by
  simp only [limitDue, Bool.or_eq_false_iff, List.any_eq_false] at none_due
  obtain ⟨⟨-, pulses⟩, -⟩ := none_due
  exact Bool.eq_false_iff.mpr (pulses p (mem_allPorts p))

theorem pulseRemaining_of_none {s : State} {p : Port} (idle : (s.attn.get p).pulseEnd = none) :
    pulseRemaining s p = 0 := by
  simp [pulseRemaining, idle]

theorem pulseRemaining_of_some {s : State} {p : Port} {e : Mono} (runs : (s.attn.get p).pulseEnd = some e) :
    pulseRemaining s p = (e - s.tbu.mono).toNat := by
  simp [pulseRemaining, runs, remaining]

/-- A pulse that runs and is not due to end has a tick or more to go (R3, R136). -/
theorem pulseRemaining_pos {s : State} {p : Port} {e : Mono} (runs : (s.attn.get p).pulseEnd = some e)
    (not_due : attnPulseDue s p = false) : 1 ≤ pulseRemaining s p := by
  have apart : e ≠ s.tbu.mono := by simpa [attnPulseDue, runs] using not_due
  rw [pulseRemaining_of_some runs]
  bv_omega

/-- A pulse has at most its whole length to go, where the lines stand as mode and condition give (R136). -/
theorem pulseRemaining_le {s : State} (lines : LinesFollow s) (p : Port) : pulseRemaining s p ≤ 64 := by
  cases pulse : (s.attn.get p).pulseEnd with
  | none => simp [pulseRemaining_of_none pulse]
  | some e =>
    obtain ⟨-, -, -, rest⟩ := (lines p).2 e pulse
    rw [pulseRemaining_of_some pulse]
    exact rest

/-! ### READ_FLAGS -/

/-- The response payload of READ_FLAGS (R130, 10.4). -/
def readFlagsBytes (p : Port) (s : State) : List Byte :=
  flagSetBytes (s.attn.get p).flags ++ (causeCode (s.attn.get p).cause :: (sourceSetBytes (s.attn.get p).enables ++
    [attnModeCode (s.attn.get p).mode, boolCode (noticeSource s p), boolCode (attnCondition s p),
      attnLineCode (s.attn.get p).line, BitVec.ofNat 8 (pulseRemaining s p)]))

/-- READ_FLAGS completes at once with its response payload (R130). -/
theorem runReadFlags_eq (p : Port) (s : State) : runReadFlags p s = complete p .ok (readFlagsBytes p s) s := by
  simp [runReadFlags, readFlagsBytes]

/-- An outstanding command does not show in what READ_FLAGS reports. -/
@[simp] theorem readFlagsBytes_outstanding (p q : Port) (snap : Snapshot) (code seq : Byte) (payload : List Byte)
    (held : Bool) (s : State) : readFlagsBytes q (outstanding p snap code seq payload held s) = readFlagsBytes q s := by
  simp [readFlagsBytes, pulseRemaining]

/-- A ready port is answered at once with the response payload of READ_FLAGS, and nothing else changes (R130). -/
theorem exec_readFlags {p : Port} {snap : Snapshot} {s : State} (seq : Byte) (ready : Ready p snap s) :
    exec (.readFlags p seq []) s = .next (answered p snap 0x40 seq [] .ok (readFlagsBytes p s) s) := by
  have sent := sendRequest_runs (code := codeReadFlags) seq ready (payload := []) rfl
  calc exec (.readFlags p seq []) s
      = .next (sendRequest p codeReadFlags seq [] (takeDueLimits s)) := rfl
    _ = .next (answered p snap codeReadFlags seq [] .ok (readFlagsBytes p s) s) := by
        rw [sent, runCommand_readFlags, runReadFlags_eq, readFlagsBytes_outstanding, complete_outstanding]

@[simp] theorem flagSetBytes_length (x : BitVec 9) : (flagSetBytes x).length = 2 := toBytes_length _ _

@[simp] theorem sourceSetBytes_length (x : BitVec 10) : (sourceSetBytes x).length = 2 := toBytes_length _ _

theorem readFlagsBytes_length (p : Port) (s : State) : (readFlagsBytes p s).length = 10 := by
  simp [readFlagsBytes]

/-- The flags and the enables are read back (10.3, 10.4). -/
theorem readFlagsBytes_sets (p : Port) (s : State) :
    numField (readFlagsBytes p s) 0 2 = (s.attn.get p).flags.toNat ∧
      numField (readFlagsBytes p s) 3 2 = (s.attn.get p).enables.toNat := by
  have flags : (s.attn.get p).flags.toNat < 256 ^ 2 := (BitVec.isLt _).trans (by decide)
  have enables : (s.attn.get p).enables.toNat < 256 ^ 2 := (BitVec.isLt _).trans (by decide)
  refine ⟨numField_toBytes_append _ flags, ?_⟩
  calc numField (readFlagsBytes p s) 3 2
      = numField (sourceSetBytes (s.attn.get p).enables ++ _) 0 2 := by
        rw [readFlagsBytes, numField_append_right (by simp), flagSetBytes_length, numField_cons_succ]
    _ = (s.attn.get p).enables.toNat := numField_toBytes_append _ enables

/-- The single bytes are the codes of cause, mode, NOTICE source, condition and line, and the pulse remaining (10.4). -/
theorem readFlagsBytes_codes (p : Port) (s : State) :
    byteAt (readFlagsBytes p s) 2 = causeCode (s.attn.get p).cause ∧
      byteAt (readFlagsBytes p s) 5 = attnModeCode (s.attn.get p).mode ∧
      byteAt (readFlagsBytes p s) 6 = boolCode (noticeSource s p) ∧
      byteAt (readFlagsBytes p s) 7 = boolCode (attnCondition s p) ∧
      byteAt (readFlagsBytes p s) 8 = attnLineCode (s.attn.get p).line ∧
      byteAt (readFlagsBytes p s) 9 = BitVec.ofNat 8 (pulseRemaining s p) := by
  simp [readFlagsBytes, byteAt_append_right]

/-- A pulse remaining of at most 64 ticks is read back from its byte (R136, 10.4). -/
theorem readFlagsBytes_pulse {s : State} (lines : LinesFollow s) (p : Port) :
    (byteAt (readFlagsBytes p s) 9).toNat = pulseRemaining s p := by
  obtain ⟨-, -, -, -, -, pulse⟩ := readFlagsBytes_codes p s
  have fits := pulseRemaining_le lines p
  rw [pulse, BitVec.toNat_ofNat]
  omega

/-- Settles O38: the response is formed from one state and read back field by field; a pulse that runs is not due, as no
limit is, so that its rest is from 1 to 64. -/
theorem readFlagsReportsThePort : Obligations.ReadFlagsReportsThePort := by
  intro p snap s seq ready lines
  have ⟨_, _, none_due⟩ := ready
  obtain ⟨flags, enables⟩ := readFlagsBytes_sets p s
  obtain ⟨cause, mode, notice, condition, line, pulse⟩ := readFlagsBytes_codes p s
  refine ⟨readFlagsBytes p s, exec_readFlags seq ready, readFlagsBytes_length p s, flags, cause, enables, mode, notice,
    condition, line, fun idle => ?_, fun e runs => ?_⟩
  · simp [pulse, pulseRemaining_of_none idle]
  · rw [readFlagsBytes_pulse lines]
    exact ⟨pulseRemaining_of_some runs, pulseRemaining_pos runs (attnPulseDue_of_limitDue none_due p),
      pulseRemaining_le lines p⟩

end Sys2Proof.Machine
end

section
/-! PROOFS. What READ_PROFILE reports (07_port_profiles_and_the_profile_image.md). -/

namespace Sys2Proof.Machine

/-- Only the letters A to D, which stand together from 41h to 44h, name a port (R198). -/
theorem portOfCode_eq_none_iff (x : Byte) : portOfCode x = none ↔ x.toNat < 0x41 ∨ 0x44 < x.toNat := by
  have a : x = 0x41 ↔ x.toNat = 0x41 := BitVec.toNat_inj.symm
  have b : x = 0x42 ↔ x.toNat = 0x42 := BitVec.toNat_inj.symm
  have c : x = 0x43 ↔ x.toNat = 0x43 := BitVec.toNat_inj.symm
  have d : x = 0x44 ↔ x.toNat = 0x44 := BitVec.toNat_inj.symm
  simp only [portOfCode, a, b, c, d]
  split_ifs <;> simp only [true_iff, false_iff] <;> omega

/-- The response payload of READ_PROFILE for a port (R158, 10.7). -/
def readProfileBytes (t : Port) (s : State) : List Byte :=
  profileBytes (s.pru.profiles.get t) ++ [BitVec.ofNat 8 (ownedCount s t)] ++ strobeMapBytes s.pru.strobeMap ++
    [sourceCode s.pru.source]

/-! ### The outcomes of READ_PROFILE (R158) -/

theorem runReadProfile_of_no_port {payload : List Byte} (p : Port) (s : State)
    (unnamed : portOfCode (byteAt payload 0) = none) : runReadProfile p payload s = complete p .badValue [] s := by
  simp [runReadProfile, unnamed]

theorem runReadProfile_of_port {payload : List Byte} {t : Port} (p : Port) (s : State)
    (named : portOfCode (byteAt payload 0) = some t) :
    runReadProfile p payload s = complete p .ok (readProfileBytes t s) s := by
  simp [runReadProfile, named, readProfileBytes]

/-- An outstanding command does not show in what READ_PROFILE reports. -/
@[simp] theorem readProfileBytes_outstanding (p t : Port) (snap : Snapshot) (code seq : Byte) (payload : List Byte)
    (held : Bool) (s : State) :
    readProfileBytes t (outstanding p snap code seq payload held s) = readProfileBytes t s := by
  simp [readProfileBytes]

/-- A ready port hands READ_PROFILE to the Profile Unit, not held, whatever its attributes (R158, R177, R178). -/
theorem exec_readProfile {p : Port} {snap : Snapshot} {s : State} (seq x : Byte) (ready : Ready p snap s) :
    exec (.readProfile p seq [x]) s = .next (runReadProfile p [x] (outstanding p snap 0x50 seq [x] false s)) := by
  have known : payloadLength codeReadProfile = some [x].length := rfl
  exact congrArg Host.Outcome.next (sendRequest_runs seq ready known)

/-- Settles O42: READ_PROFILE is split by whether its letter names a port. -/
theorem readProfileReportsTheTables : Obligations.ReadProfileReportsTheTables := by
  intro p snap s seq ready
  refine ⟨fun x outside => ?_, fun t => ?_⟩
  · have unnamed : portOfCode (byteAt [x] 0) = none := (portOfCode_eq_none_iff x).mpr outside
    rw [exec_readProfile seq x ready, runReadProfile_of_no_port p _ unnamed, complete_outstanding]
  · have named : portOfCode (byteAt [portCode t] 0) = some t := portOfCode_portCode t
    rw [exec_readProfile seq _ ready, runReadProfile_of_port p _ named, readProfileBytes_outstanding,
      complete_outstanding]
    rfl

end Sys2Proof.Machine
end

section
/-! PROOFS. What IDENTIFY answers (08_host_ports.md). -/

namespace Sys2Proof.Machine

/-- A ready port hands IDENTIFY to its own Port Controller, not held, whatever its attributes (R177, R178, R182). -/
theorem exec_identify {p : Port} {snap : Snapshot} {s : State} (seq : Byte) (ready : Ready p snap s) :
    exec (.identify p seq []) s = .next (runIdentify p (outstanding p snap 0x01 seq [] false s)) := by
  have known : payloadLength codeIdentify = some ([] : List Byte).length := rfl
  exact congrArg Host.Outcome.next (sendRequest_runs seq ready known)

/-- Settles O51: the Port Controller reads no profile, no validity state and no walk; it completes the outstanding command
at once with constant bytes and the letter of the port. -/
theorem identifyAnswers : Obligations.IdentifyAnswers := by
  intro p snap s seq ready
  rw [exec_identify seq ready, runIdentify, complete_outstanding]

end Sys2Proof.Machine
end

section
/-! PROOFS. The attention condition and the answer of the attention line to it (06_attention_and_strobe_outputs.md). -/

-- One proof after the other: the memory limit of the check bounds the threads of Lean.
set_option Elab.async false

namespace Sys2Proof.Machine

/-! ### The answer of a line, by mode and condition (R135 to R137) -/

section Answer
variable {a : Attn} (m : Mono)

theorem answeredLine_level (b c : Bool) (mode : a.mode = .level) : answeredLine m b c a = levelLine c a := by
  simp [answeredLine, mode]

theorem answeredLine_rise (mode : a.mode = .pulse) : answeredLine m false true a = startedPulse m a := by
  simp [answeredLine, mode]

theorem answeredLine_fall (mode : a.mode = .pulse) : answeredLine m true false a = releasedLine a := by
  simp [answeredLine, mode]

theorem answeredLine_steady (b : Bool) (mode : a.mode = .pulse) : answeredLine m b b a = a := by
  cases b <;> simp [answeredLine, mode]

end Answer

theorem inMain_iff (s : State) : inMain s = true ↔ s.spm.supply = .main := by simp [inMain]

theorem inMain_eq_false_iff (s : State) : inMain s = false ↔ s.spm.supply ≠ .main := by simp [inMain]

theorem inMain_congr {s t : State} (h : t.spm = s.spm) : inMain t = inMain s := by simp [inMain, h]

/-- The line of a port answers an event that left line and pulse to it, once the condition is formed again (R133, R135 to
R138). -/
theorem lineAnswers_followAttention {p : Port} {s u : State} (tbu : u.tbu = s.tbu) (spm : u.spm = s.spm)
    (line : (u.attn.get p).line = (s.attn.get p).line) (pulse : (u.attn.get p).pulseEnd = (s.attn.get p).pulseEnd) :
    lineAnswers p s (followAttention p (attnCondition s p) u) := by
  have self := followAttention_self p (attnCondition s p) u
  rw [inMain_congr spm, tbu] at self
  refine ⟨fun outside => ?_, fun main mode => ?_, fun main mode => ⟨fun before after => ?_, fun before after => ?_,
    fun same => ?_⟩⟩
  · rw [self, if_neg (by simpa [inMain] using outside)]
    exact ⟨line, pulse⟩
  · have mode' : (u.attn.get p).mode = .level := by simpa using mode
    rw [attnCondition_followAttention, self, if_pos ((inMain_iff s).mpr main), answeredLine_level _ _ _ mode']
    cases attnCondition u p <;> simp [levelLine]
  all_goals
    have mode' : (u.attn.get p).mode = .pulse := by simpa using mode
    rw [self, if_pos ((inMain_iff s).mpr main)]
  · rw [attnCondition_followAttention] at after
    rw [before, after, answeredLine_rise _ mode']
    exact ⟨rfl, rfl⟩
  · rw [attnCondition_followAttention] at after
    rw [before, after, answeredLine_fall _ mode']
    exact ⟨rfl, rfl⟩
  · rw [attnCondition_followAttention] at same
    rw [same, answeredLine_steady _ _ mode']
    exact ⟨line, pulse⟩

/-- Forming the condition again changes nothing but the ASU state of its port. -/
theorem followAttention_eq_set (p : Port) (b : Bool) (u : State) :
    followAttention p b u = { u with attn := u.attn.set p ((followAttention p b u).attn.get p) } := by
  rcases followAttention_eq p b u with h | h
  · rw [h, PerPort.set_get]
  · rw [h]
    simp [State.setAttn]

/-! ### Hand-overs and queue changes -/

theorem handFlag_eq_set (f : Flag) (p : Port) (s : State) :
    handFlag f p s = { s with attn := s.attn.set p ((handFlag f p s).attn.get p) } := by
  have h := followAttention_eq_set p (attnCondition s p)
    (s.setAttn p { s.attn.get p with flags := (s.attn.get p).flags ||| flagBit f })
  simpa [handFlag, State.setAttn] using h

theorem lineAnswers_handFlag (f : Flag) (p : Port) (s : State) : lineAnswers p s (handFlag f p s) :=
  lineAnswers_followAttention rfl rfl (by simp) (by simp)

theorem replaceQueue_eq_set (p : Port) (q : NoticeQueue) (s : State) :
    replaceQueue p q s =
      { s with queues := s.queues.set p q, attn := s.attn.set p ((replaceQueue p q s).attn.get p) } :=
  followAttention_eq_set p (attnCondition s p) (s.setQueue p q)

theorem lineAnswers_replaceQueue (p : Port) (q : NoticeQueue) (s : State) : lineAnswers p s (replaceQueue p q s) :=
  lineAnswers_followAttention rfl rfl rfl rfl

/-- What a hand-over makes of its port depends on the port's own ASU state and queue, the count and the supply alone. -/
theorem handFlag_self_congr {s u : State} {r : Port} (f : Flag) (attn : u.attn.get r = s.attn.get r)
    (queue : u.queues.get r = s.queues.get r) (mono : u.tbu.mono = s.tbu.mono) (spm : u.spm = s.spm) :
    (handFlag f r u).attn.get r = (handFlag f r s).attn.get r := by
  simp only [handFlag, followAttention_self, inMain, attnCondition, attnSources, noticeSource, State.setAttn_attn,
    State.setAttn_queues, State.setAttn_spm, State.setAttn_tbu, PerPort.get_set_self, attn, queue, mono, spm]

/-- A hand-over for every port does at each port what a hand-over for it does (R127). -/
theorem handFlagToAll_attn (f : Flag) (r : Port) (s : State) :
    (handFlagToAll f s).attn.get r = (handFlag f r s).attn.get r := by
  simp only [handFlagToAll, allPorts, List.foldl_cons, List.foldl_nil]
  cases r
  · rw [handFlag_other, handFlag_other, handFlag_other] <;> decide
  · rw [handFlag_other, handFlag_other]
    · exact handFlag_self_congr f (handFlag_other f s (by decide)) (by simp) (by simp) (by simp)
    all_goals decide
  · rw [handFlag_other]
    · refine handFlag_self_congr f ?_ (by simp) (by simp) (by simp)
      rw [handFlag_other, handFlag_other] <;> decide
    · decide
  · refine handFlag_self_congr f ?_ (by simp) (by simp) (by simp)
    rw [handFlag_other, handFlag_other, handFlag_other] <;> decide

/-- A state that differs from another in the ASU alone. -/
theorem State.eq_with_attn {s t : State}
    (h : t.tbu = s.tbu ∧ t.lease = s.lease ∧ t.agu = s.agu ∧ t.queues = s.queues ∧ t.strobes = s.strobes ∧ t.pru = s.pru ∧
      t.ports = s.ports ∧ t.spm = s.spm ∧ t.draws = s.draws ∧ t.pending = s.pending) :
    t = { s with attn := t.attn } := by
  obtain ⟨tbu, lease, agu, queues, strobes, pru, ports, spm, draws, pending⟩ := h
  cases s; cases t
  simp_all

/-! ### The condition, source by source (R132, R133) -/

/-- A set of bits has a common member with another where a place holds both. -/
theorem and_ne_zero_iff {w : Nat} (x y : BitVec w) :
    (x &&& y != 0) = true ↔ ∃ i, i < w ∧ x.getLsbD i = true ∧ y.getLsbD i = true := by
  rw [bne_iff_ne, ne_eq, ← not_iff_not, not_not]
  constructor
  · rintro zero ⟨i, -, hx, hy⟩
    have := congrArg (·.getLsbD i) zero
    simp [hx, hy] at this
  · intro none
    apply BitVec.eq_of_getLsbD_eq
    intro i hi
    have apart : ¬ (x.getLsbD i = true ∧ y.getLsbD i = true) := fun both => none ⟨i, hi, both⟩
    simpa using apart

theorem attnSources_getLsbD (s : State) (p : Port) (i : Nat) :
    (attnSources s p).getLsbD i = if i < 9 then (s.attn.get p).flags.getLsbD i else (noticeSource s p && i == 9) := by
  rw [attnSources, BitVec.getLsbD_append]
  by_cases flag : i < 9
  · simp [flag]
  · simp only [flag, if_false, BitVec.getLsbD_ofBool]
    obtain rfl | later : i = 9 ∨ 9 < i := by omega
    · simp
    · have h1 : ¬ i - 9 = 0 := by omega
      have h2 : ¬ i = 9 := by omega
      simp [h1, h2]

theorem flagIndex_surjective {i : Nat} (h : i < 9) : ∃ f : Flag, flagIndex f = i := by
  have all : ∀ i < 9, ∃ f ∈ [Flag.leaseLost, .timeAdjusted, .validity, .resumed, .restarted, .portReset, .frame, .supply,
      .profile], flagIndex f = i := by decide
  obtain ⟨f, -, hf⟩ := all i h
  exact ⟨f, hf⟩

theorem flagIndex_lt (f : Flag) : flagIndex f < 9 := by cases f <;> decide

/-- The condition is true while an enabled source is (R133). -/
theorem attnCondition_iff (s : State) (p : Port) :
    attnCondition s p = true ↔
      (noticeSource s p = true ∧ (s.attn.get p).enables.getLsbD 9 = true) ∨
        ∃ f : Flag, (s.attn.get p).flags.getLsbD (flagIndex f) = true ∧
          (s.attn.get p).enables.getLsbD (flagIndex f) = true := by
  rw [attnCondition, and_ne_zero_iff]
  simp only [attnSources_getLsbD]
  constructor
  · rintro ⟨i, hi, source, enabled⟩
    by_cases flag : i < 9
    · obtain ⟨f, rfl⟩ := flagIndex_surjective flag
      exact .inr ⟨f, by simpa [flag] using source, enabled⟩
    · obtain rfl : i = 9 := by omega
      exact .inl ⟨by simpa using source, enabled⟩
  · rintro (⟨notice, enabled⟩ | ⟨f, flag, enabled⟩)
    · exact ⟨9, by decide, by simpa using notice, enabled⟩
    · have := flagIndex_lt f
      exact ⟨flagIndex f, by omega, by simpa [this] using flag, enabled⟩

theorem noticeSource_iff (s : State) (p : Port) :
    noticeSource s p = true ↔ ∃ n ∈ (s.queues.get p).notices, n.delivered = false := by
  simp [noticeSource]

/-- Settles O37: a hand-over and a queue change are one change of the ASU state or the queue, followed by the answer of
the line to the condition before and after. -/
theorem handOverReachesFlagAndLine : Obligations.HandOverReachesFlagAndLine := by
  refine ⟨fun f s => ⟨fun p => ?_, (handFlagToAll f s).attn, ?_, fun r => handFlagToAll_attn f r s⟩, fun s p q => ?_,
    fun s p => ⟨noticeSource_iff s p, attnCondition_iff s p⟩⟩
  · have flags := handFlag_flags f p p s
    obtain ⟨cause, enables, mode⟩ := handFlag_config f p p s
    exact ⟨handFlag_eq_set f p s, by simpa using flags, cause, enables, mode, lineAnswers_handFlag f p s⟩
  · exact State.eq_with_attn (handFlagToAll_frame f s)
  · exact ⟨replaceQueue_eq_set p q s, replaceQueue_attn p p q s, lineAnswers_replaceQueue p q s⟩

end Sys2Proof.Machine
end

section
/-! PROOFS. The time limits that are due are taken before every other row (R3; logs 1, 12). -/

-- One proof after the other: the memory limit of the check bounds the threads of Lean.
set_option Elab.async false

namespace Sys2Proof.Machine

/-! ### The expiries one by one -/

theorem leaseExpiry_of_not_due {s : State} (h : leaseDue s = false) : leaseExpiry s = s := by simp [leaseExpiry, h]

theorem frameTimeout_of_not_due {s : State} {p : Port} (h : frameLimitDue s p = false) : frameTimeout p s = s := by
  simp [frameTimeout, h]

theorem attnPulseEnd_of_not_due {s : State} {p : Port} (h : attnPulseDue s p = false) : attnPulseEnd p s = s := by
  simp [attnPulseEnd, h]

theorem strobePulseEnd_of_not_due {s : State} {l : Line} (h : strobePulseDue s l = false) : strobePulseEnd l s = s := by
  simp [strobePulseEnd, h]

theorem resume_of_not_due {s : State} (h : settleDue s = false) : resume s = s := by simp [resume, h]

theorem frameTimeout_of_due {s : State} {p : Port} (h : frameLimitDue s p = true) :
    frameTimeout p s = frameErrorAt p .timeout (discardTransaction p s) := by
  simp [frameTimeout, h]

theorem attnPulseEnd_of_due {s : State} {p : Port} (h : attnPulseDue s p = true) :
    attnPulseEnd p s = s.setAttn p (releasedLine (s.attn.get p)) := by
  simp [attnPulseEnd, h]

theorem strobePulseEnd_of_due {s : State} {l : Line} (h : strobePulseDue s l = true) :
    strobePulseEnd l s = s.setStrobe l .idle := by
  simp [strobePulseEnd, h]

theorem mem_allLines (l : Line) : l ∈ allLines := by cases l <;> decide

/-- No limit is due where none of any kind is. -/
theorem limitDue_eq_false_iff (s : State) :
    limitDue s = false ↔ leaseDue s = false ∧ settleDue s = false ∧ (∀ p, frameLimitDue s p = false) ∧
      (∀ p, attnPulseDue s p = false) ∧ ∀ l, strobePulseDue s l = false := by
  simp only [limitDue, Bool.or_eq_false_iff, List.any_eq_false, Bool.not_eq_true]
  constructor
  · rintro ⟨⟨⟨⟨lease, settle⟩, frames⟩, pulses⟩, strobes⟩
    exact ⟨lease, settle, fun p => frames p (mem_allPorts p), fun p => pulses p (mem_allPorts p),
      fun l => strobes l (mem_allLines l)⟩
  · rintro ⟨lease, settle, frames, pulses, strobes⟩
    exact ⟨⟨⟨⟨lease, settle⟩, fun p _ => frames p⟩, fun p _ => pulses p⟩, fun l _ => strobes l⟩

/-! ### What an expiry leaves -/

@[simp] theorem leaseExpiry_frame (s : State) :
    (leaseExpiry s).tbu = s.tbu ∧ (leaseExpiry s).agu = s.agu ∧ (leaseExpiry s).queues = s.queues ∧
    (leaseExpiry s).strobes = s.strobes ∧ (leaseExpiry s).pru = s.pru ∧ (leaseExpiry s).ports = s.ports ∧
    (leaseExpiry s).spm = s.spm ∧ (leaseExpiry s).draws = s.draws ∧ (leaseExpiry s).pending = s.pending := by
  unfold leaseExpiry
  split <;> simp

@[simp] theorem frameTimeout_frame (p : Port) (s : State) :
    (frameTimeout p s).tbu = s.tbu ∧ (frameTimeout p s).lease = s.lease ∧ (frameTimeout p s).agu = s.agu ∧
    (frameTimeout p s).queues = s.queues ∧ (frameTimeout p s).strobes = s.strobes ∧ (frameTimeout p s).pru = s.pru ∧
    (frameTimeout p s).spm = s.spm ∧ (frameTimeout p s).draws = s.draws ∧ (frameTimeout p s).pending = s.pending := by
  unfold frameTimeout
  split <;> simp

@[simp] theorem attnPulseEnd_frame (p : Port) (s : State) :
    (attnPulseEnd p s).tbu = s.tbu ∧ (attnPulseEnd p s).lease = s.lease ∧ (attnPulseEnd p s).agu = s.agu ∧
    (attnPulseEnd p s).queues = s.queues ∧ (attnPulseEnd p s).strobes = s.strobes ∧ (attnPulseEnd p s).pru = s.pru ∧
    (attnPulseEnd p s).ports = s.ports ∧ (attnPulseEnd p s).spm = s.spm ∧ (attnPulseEnd p s).draws = s.draws ∧
    (attnPulseEnd p s).pending = s.pending := by
  unfold attnPulseEnd
  split <;> simp

@[simp] theorem strobePulseEnd_frame (l : Line) (s : State) :
    (strobePulseEnd l s).tbu = s.tbu ∧ (strobePulseEnd l s).lease = s.lease ∧ (strobePulseEnd l s).agu = s.agu ∧
    (strobePulseEnd l s).queues = s.queues ∧ (strobePulseEnd l s).attn = s.attn ∧ (strobePulseEnd l s).pru = s.pru ∧
    (strobePulseEnd l s).ports = s.ports ∧ (strobePulseEnd l s).spm = s.spm ∧ (strobePulseEnd l s).draws = s.draws ∧
    (strobePulseEnd l s).pending = s.pending := by
  unfold strobePulseEnd
  split <;> simp

/-! ### Which limits an expiry leaves due -/

theorem leaseDue_congr {s t : State} (lease : t.lease = s.lease) (tbu : t.tbu = s.tbu) : leaseDue t = leaseDue s := by
  simp [leaseDue, lease, tbu]

theorem frameLimitDue_congr {s t : State} (ports : t.ports = s.ports) (tbu : t.tbu = s.tbu) (p : Port) :
    frameLimitDue t p = frameLimitDue s p := by
  simp [frameLimitDue, ports, tbu]

theorem attnPulseDue_congr {s t : State} (attn : t.attn = s.attn) (tbu : t.tbu = s.tbu) (p : Port) :
    attnPulseDue t p = attnPulseDue s p := by
  simp [attnPulseDue, attn, tbu]

theorem strobePulseDue_congr {s t : State} (strobes : t.strobes = s.strobes) (tbu : t.tbu = s.tbu) (l : Line) :
    strobePulseDue t l = strobePulseDue s l := by
  simp [strobePulseDue, strobes, tbu]

theorem leaseDue_leaseExpiry (s : State) : leaseDue (leaseExpiry s) = false := by
  unfold leaseExpiry
  split
  · simp [leaseDue]
  · next h => simpa using h

/-- A frame limit that is due goes with its expiry, and no other becomes due (R173). -/
theorem frameLimitDue_frameTimeout (p q : Port) (s : State) :
    frameLimitDue (frameTimeout p s) q = if q = p then false else frameLimitDue s q := by
  by_cases due : frameLimitDue s p = true
  · rw [frameTimeout_of_due due]
    simp only [frameLimitDue, frameErrorAt_frame, discardTransaction_frame, PerPort.get_set]
    split_ifs with other
    · cases (s.ports.get p).receiver <;> rfl
    · rfl
  · rw [frameTimeout_of_not_due (by simpa using due)]
    split_ifs with same
    · rw [same]; simpa using due
    · rfl

/-- An attention pulse that is due ends with its expiry, and no other becomes due (R136). -/
theorem attnPulseDue_attnPulseEnd (p q : Port) (s : State) :
    attnPulseDue (attnPulseEnd p s) q = if q = p then false else attnPulseDue s q := by
  by_cases due : attnPulseDue s p = true
  · rw [attnPulseEnd_of_due due]
    simp only [attnPulseDue, State.setAttn_attn, State.setAttn_tbu, PerPort.get_set]
    split_ifs <;> simp [releasedLine]
  · rw [attnPulseEnd_of_not_due (by simpa using due)]
    split_ifs with same
    · rw [same]; simpa using due
    · rfl

/-- A strobe pulse that is due ends with its expiry, and no other becomes due (R143). -/
theorem strobePulseDue_strobePulseEnd (l m : Line) (s : State) :
    strobePulseDue (strobePulseEnd l s) m = if m = l then false else strobePulseDue s m := by
  by_cases due : strobePulseDue s l = true
  · rw [strobePulseEnd_of_due due]
    simp only [strobePulseDue, State.setStrobe_strobes, State.setStrobe_tbu, PerLine.get_set]
    split_ifs <;> rfl
  · rw [strobePulseEnd_of_not_due (by simpa using due)]
    split_ifs with same
    · rw [same]; simpa using due
    · rfl

/-! ### Runs of expiries over the ports or lines -/

/-- A run that ends a limit at each visit leaves none due. -/
theorem foldl_ends_all {α : Type} [DecidableEq α] (due : State → α → Bool) (f : α → State → State) (l : List α)
    (ends : ∀ a b s, due (f a s) b = if b = a then false else due s b) (s : State) (b : α) (h : b ∈ l) :
    due (l.foldl (fun s a => f a s) s) b = false := by
  suffices kept : ∀ l : List α, ∀ s, b ∈ l ∨ due s b = false → due (l.foldl (fun s a => f a s) s) b = false from
    kept l s (.inl h)
  intro l
  induction l with
  | nil => rintro s (h | h) <;> simp_all
  | cons a l ih =>
    intro s h
    refine ih (f a s) ?_
    rw [ends]
    by_cases same : b = a
    · simp [same]
    · simpa [same] using h

/-- A run of visits that have nothing to do leaves the state. -/
theorem foldl_idle {α : Type} (f : State → α → State) (l : List α) (s : State) (idle : ∀ a, f s a = s) :
    l.foldl f s = s := by
  induction l with
  | nil => rfl
  | cons a l ih => rw [List.foldl_cons, idle, ih]

/-! ### Resume -/

/-- The part once RESUMED was set on a port, before its line takes up its mode (R138, R189). -/
def resumeFlagged (s : State) (p : Port) : State :=
  s.setAttn p { s.attn.get p with flags := (s.attn.get p).flags ||| flagBit .resumed }

/-- The line of a port takes up its mode by the condition after RESUMED was set (R138, R189). -/
theorem resumeAttention_eq (s : State) (p : Port) :
    resumeAttention s p =
      s.setAttn p (resumeLine s.tbu.mono (attnCondition (resumeFlagged s p) p) ((resumeFlagged s p).attn.get p)) := by
  simp [resumeAttention, resumeFlagged, State.setAttn]

theorem resumeLine_pulseEnd (m : Mono) (c : Bool) (a : Attn) :
    (resumeLine m c a).pulseEnd = none ∨ (resumeLine m c a).pulseEnd = some (m + attnPulseTicks) := by
  unfold resumeLine
  split
  · exact .inl rfl
  · cases c
    · exact .inl rfl
    · exact .inr rfl

/-- A pulse that starts now is not due to end. -/
theorem attnPulseDue_resumeAttention (s : State) (p q : Port) (h : attnPulseDue s q = false) :
    attnPulseDue (resumeAttention s p) q = false := by
  have pulse := resumeLine_pulseEnd s.tbu.mono (attnCondition (resumeFlagged s p) p) ((resumeFlagged s p).attn.get p)
  rw [resumeAttention_eq]
  simp only [attnPulseDue, State.setAttn_attn, State.setAttn_tbu, PerPort.get_set]
  split_ifs
  · rcases pulse with pulse | pulse
    · simp [pulse]
    · simp [pulse, attnPulseTicks]
  · exact h

@[simp] theorem resumeAttention_frame (s : State) (p : Port) :
    (resumeAttention s p).tbu = s.tbu ∧ (resumeAttention s p).lease = s.lease ∧ (resumeAttention s p).agu = s.agu ∧
    (resumeAttention s p).queues = s.queues ∧ (resumeAttention s p).strobes = s.strobes ∧
    (resumeAttention s p).pru = s.pru ∧ (resumeAttention s p).ports = s.ports ∧ (resumeAttention s p).spm = s.spm ∧
    (resumeAttention s p).draws = s.draws ∧ (resumeAttention s p).pending = s.pending := by
  simp [resumeAttention_eq]

@[simp] theorem beginRead_frame (s : State) :
    (beginRead s).tbu = s.tbu ∧ (beginRead s).lease = s.lease ∧ (beginRead s).agu = s.agu ∧
    (beginRead s).queues = s.queues ∧ (beginRead s).attn = s.attn ∧ (beginRead s).strobes = s.strobes ∧
    (beginRead s).ports = s.ports ∧ (beginRead s).spm = s.spm ∧ (beginRead s).pending = s.pending ∧
    (beginRead s).pru.profiles = s.pru.profiles ∧ (beginRead s).pru.strobeMap = s.pru.strobeMap ∧
    (beginRead s).pru.source = s.pru.source ∧ (beginRead s).pru.load = .loading := by
  simp [beginRead]

/-- The resume event but for the read that it may begin (R189). -/
def resumed (s : State) : State :=
  allPorts.foldl resumeAttention
    { s with spm := { s.spm with supply := .main }, ports := s.ports.map (resumePort s.pru.load s.spm.resetAsserted) }

theorem resumeEvent_eq (s : State) :
    resumeEvent s = if s.pru.load = .waitingSupply then beginRead (resumed s) else resumed s := rfl

@[simp] theorem resumed_frame (s : State) :
    (resumed s).tbu = s.tbu ∧ (resumed s).lease = s.lease ∧ (resumed s).agu = s.agu ∧
    (resumed s).queues = s.queues ∧ (resumed s).strobes = s.strobes ∧ (resumed s).pru = s.pru ∧
    (resumed s).ports = s.ports.map (resumePort s.pru.load s.spm.resetAsserted) ∧
    (resumed s).spm = { s.spm with supply := .main } ∧ (resumed s).draws = s.draws ∧
    (resumed s).pending = s.pending := by
  simp [resumed, allPorts]

@[simp] theorem resumeEvent_frame (s : State) :
    (resumeEvent s).tbu = s.tbu ∧ (resumeEvent s).lease = s.lease ∧ (resumeEvent s).agu = s.agu ∧
    (resumeEvent s).queues = s.queues ∧ (resumeEvent s).attn = (resumed s).attn ∧ (resumeEvent s).strobes = s.strobes ∧
    (resumeEvent s).ports = s.ports.map (resumePort s.pru.load s.spm.resetAsserted) ∧
    (resumeEvent s).spm = { s.spm with supply := .main } ∧ (resumeEvent s).pending = s.pending := by
  rw [resumeEvent_eq]
  split <;> simp

/-- The resume event makes no limit due (R189). -/
theorem limitDue_resumeEvent {s : State} (lease : leaseDue s = false) (pulses : ∀ p, attnPulseDue s p = false)
    (strobes : ∀ l, strobePulseDue s l = false) : limitDue (resumeEvent s) = false := by
  rw [limitDue_eq_false_iff]
  refine ⟨?_, ?_, fun p => ?_, fun p => ?_, fun l => ?_⟩
  · rwa [leaseDue_congr (s := s) (by simp) (by simp)]
  · simp [settleDue]
  · simp only [frameLimitDue, resumeEvent_frame, PerPort.get_map, resumePort]
    cases (s.ports.get p).select <;> rfl
  · rw [attnPulseDue_congr (t := resumeEvent s) (s := resumed s) (by simp) (by simp), resumed]
    refine foldl_keeps (P := fun t => attnPulseDue t p = false) _ _ _
      (fun t q ht => attnPulseDue_resumeAttention t q p ht) ?_
    rw [← pulses p]
    rfl
  · rw [strobePulseDue_congr (s := s) (by simp) (by simp)]
    exact strobes l

/-- A system reset leaves no limit due but those of the supply, and none of that kind in MAIN (R195). -/
theorem limitDue_systemReset {s : State} (settle : settleDue s = false) : limitDue (systemReset s) = false := by
  rw [limitDue_eq_false_iff]
  refine ⟨rfl, settle, fun p => ?_, fun p => ?_, fun l => ?_⟩
  · simp only [frameLimitDue, systemReset, PerPort.get_map, systemResetPort]
    cases (s.ports.get p).receiver <;> rfl
  · simp [attnPulseDue, systemReset, Attn.defaults]
  · simp [strobePulseDue, systemReset]

theorem limitDue_resume {s : State} (lease : leaseDue s = false) (frames : ∀ p, frameLimitDue s p = false)
    (pulses : ∀ p, attnPulseDue s p = false) (strobes : ∀ l, strobePulseDue s l = false) :
    limitDue (resume s) = false := by
  unfold resume
  split_ifs with settle reset
  · exact limitDue_systemReset (by simp [settleDue])
  · exact limitDue_resumeEvent lease pulses strobes
  · exact (limitDue_eq_false_iff s).mpr ⟨lease, by simpa using settle, frames, pulses, strobes⟩

/-! ### All limits in their order -/

/-- The expiry of every limit but the settle end, in order (log 1). -/
def limitsBeforeResume (s : State) : State :=
  allLines.foldl (fun s l => strobePulseEnd l s)
    (allPorts.foldl (fun s p => attnPulseEnd p s) (allPorts.foldl (fun s p => frameTimeout p s) (leaseExpiry s)))

/-- Once the limits before it were taken, the settle end alone may be due. -/
theorem limitsBeforeResume_taken (s : State) :
    leaseDue (limitsBeforeResume s) = false ∧ (∀ p, frameLimitDue (limitsBeforeResume s) p = false) ∧
      (∀ p, attnPulseDue (limitsBeforeResume s) p = false) ∧ ∀ l, strobePulseDue (limitsBeforeResume s) l = false := by
  have frames := foldl_ends_all frameLimitDue frameTimeout allPorts (fun p q s => frameLimitDue_frameTimeout p q s)
    (leaseExpiry s)
  have pulses := foldl_ends_all attnPulseDue attnPulseEnd allPorts (fun p q s => attnPulseDue_attnPulseEnd p q s)
    (allPorts.foldl (fun s p => frameTimeout p s) (leaseExpiry s))
  have strobes := foldl_ends_all strobePulseDue strobePulseEnd allLines
    (fun l m s => strobePulseDue_strobePulseEnd l m s)
    (allPorts.foldl (fun s p => attnPulseEnd p s) (allPorts.foldl (fun s p => frameTimeout p s) (leaseExpiry s)))
  refine ⟨?_, fun p => ?_, fun p => ?_, fun l => strobes l (mem_allLines l)⟩
  · rw [← leaseDue_leaseExpiry s]
    exact leaseDue_congr (by simp [limitsBeforeResume, allPorts, allLines])
      (by simp [limitsBeforeResume, allPorts, allLines])
  · rw [← frames p (mem_allPorts p)]
    exact frameLimitDue_congr (by simp [limitsBeforeResume, allPorts, allLines])
      (by simp [limitsBeforeResume, allPorts, allLines]) p
  · rw [← pulses p (mem_allPorts p)]
    exact attnPulseDue_congr (by simp [limitsBeforeResume, allLines]) (by simp [limitsBeforeResume, allLines]) p

/-- Where none is due, the expiries leave the state. -/
theorem limitsBeforeResume_of_none {s : State} (h : limitDue s = false) : limitsBeforeResume s = s := by
  obtain ⟨lease, -, frames, pulses, strobes⟩ := (limitDue_eq_false_iff s).mp h
  rw [limitsBeforeResume, leaseExpiry_of_not_due lease, foldl_idle _ allPorts s fun p => frameTimeout_of_not_due (frames p),
    foldl_idle _ allPorts s fun p => attnPulseEnd_of_not_due (pulses p),
    foldl_idle _ allLines s fun l => strobePulseEnd_of_not_due (strobes l)]

/-- The due limits are taken in order, the settle end last, whether or not one is due (R3; log 1). -/
theorem takeDueLimits_eq (s : State) : takeDueLimits s = resume (limitsBeforeResume s) := by
  cases h : limitDue s with
  | true => simp only [takeDueLimits, h, if_true, limitsBeforeResume]
  | false =>
    have settle := ((limitDue_eq_false_iff s).mp h).2.1
    rw [takeDueLimits_of_none h, limitsBeforeResume_of_none h, resume_of_not_due settle]

theorem limitDue_takeDueLimits (s : State) : limitDue (takeDueLimits s) = false := by
  obtain ⟨lease, frames, pulses, strobes⟩ := limitsBeforeResume_taken s
  rw [takeDueLimits_eq]
  exact limitDue_resume lease frames pulses strobes

@[simp] theorem takeDueLimits_idem (s : State) : takeDueLimits (takeDueLimits s) = takeDueLimits s :=
  takeDueLimits_of_none (limitDue_takeDueLimits s)

/-- What a row does, once the limits that it finds due were taken. -/
def row (c : Instr) : State → State :=
  match c with
  | .oscillatorTick => oscillatorTick
  | .crystalStop => crystalStop
  | .crystalTransition endsPeriod => crystalTransition endsPeriod
  | .leaseExpiry => leaseExpiry
  | .attentionPulseEnd p => attnPulseEnd p
  | .strobePulseEnd l => strobePulseEnd l
  | .walkVisit => walkVisit
  | .endOfWalk => endOfWalk
  | .selectAssertion x => selectAssertion x.port x.bytes
  | .frameTimeout p => frameTimeout p
  | .frameError p bytes bits => releaseSelect p bytes bits
  | .emptyTransaction p => releaseSelect p [] 0
  | .collect p after bits => releaseSelect p (collectMarker :: after) bits
  | .unknownCommand p code seq payload => sendRequest p code seq payload
  | .identify p seq payload => sendRequest p codeIdentify seq payload
  | .selfReset p seq payload => sendRequest p codeSelfReset seq payload
  | .readTime p seq payload => sendRequest p codeReadTime seq payload
  | .readCalendar p seq payload => sendRequest p codeReadCalendar seq payload
  | .claimAuthority p seq payload => sendRequest p codeClaimAuthority seq payload
  | .releaseAuthority p seq payload => sendRequest p codeReleaseAuthority seq payload
  | .stepTime p seq payload => sendRequest p codeStepTime seq payload
  | .slewTime p seq payload => sendRequest p codeSlewTime seq payload
  | .setTrim p seq payload => sendRequest p codeSetTrim seq payload
  | .createEntry p seq payload => sendRequest p codeCreateEntry seq payload
  | .cancelEntry p seq payload => sendRequest p codeCancelEntry seq payload
  | .queryEntry p seq payload => sendRequest p codeQueryEntry seq payload
  | .listOwn p seq payload => sendRequest p codeListOwn seq payload
  | .takeNotices p seq payload => sendRequest p codeTakeNotices seq payload
  | .ackNotices p seq payload => sendRequest p codeAckNotices seq payload
  | .readFlags p seq payload => sendRequest p codeReadFlags seq payload
  | .clearFlags p seq payload => sendRequest p codeClearFlags seq payload
  | .setAttention p seq payload => sendRequest p codeSetAttention seq payload
  | .readProfile p seq payload => sendRequest p codeReadProfile seq payload
  | .setProfile p seq payload => sendRequest p codeSetProfile seq payload
  | .setStrobeMap p seq payload => sendRequest p codeSetStrobeMap seq payload
  | .resetPort p seq payload => sendRequest p codeResetPort seq payload
  | .holdoverEntry => holdoverEntry
  | .settleStart => settleStart
  | .settleAbort => settleAbort
  | .resume => resume
  | .backupLow => backupLow
  | .backupPresent => backupPresent
  | .powerOn levels => powerOn levels
  | .sysrstnAssertion => sysrstnAssertion
  | .sysrstnRelease => sysrstnRelease
  | .profileLoadComplete transfer => profileLoadComplete transfer

/-- Every row but the expiries, SETTLE_ABORT and POWER_ON acts on the state after the due limits were taken (log 1). -/
theorem exec_eq_row (c : Instr) (s : State) :
    exec c s = .next (row c (if takesNoDueLimit c = true then s else takeDueLimits s)) := by
  cases c <;> rfl

/-- Settles O2: the expiry rows run one after the other are the fold that every other row begins with; each ends its limit
and makes no other due, and once none is due the fold is idle. -/
theorem dueLimitsAreTakenFirst : Obligations.DueLimitsAreTakenFirst := by
  refine ⟨fun s => ⟨?_, limitDue_takeDueLimits s⟩, fun c s h => ?_⟩
  · rw [takeDueLimits_eq]
    rfl
  · simp [exec_eq_row, h]

end Sys2Proof.Machine
end

section
/-! PROOFS. The drain of the pending parts of a port's entries into its queue (R96). -/

-- One proof after the other: the memory limit of the check bounds the threads of Lean.
set_option Elab.async false

namespace Sys2Proof.Machine

/-! ### The answer of a line to one event after another -/

/-- A line that answered an event, and then one that left the condition, has answered both as one. -/
theorem lineAnswers.trans {p : Port} {s t u : State} (h : lineAnswers p s t) (k : lineAnswers p t u)
    (spm : t.spm = s.spm) (mode : (u.attn.get p).mode = (t.attn.get p).mode)
    (condition : attnCondition u p = attnCondition t p) : lineAnswers p s u := by
  obtain ⟨out, level, pulse⟩ := h
  obtain ⟨out', level', pulse'⟩ := k
  rw [spm] at out' level' pulse'
  rw [mode] at pulse' level'
  refine ⟨fun no => ⟨(out' no).1.trans (out no).1, (out' no).2.trans (out no).2⟩, fun main at_level => ?_, fun main at_pulse => ?_⟩
  · exact level' main (by rwa [mode] at at_level)
  · rw [mode] at at_pulse
    obtain ⟨rise, fall, steady⟩ := pulse main at_pulse
    obtain ⟨line, ends⟩ := (pulse' main at_pulse).2.2 condition.symm
    rw [condition, line, ends]
    exact ⟨rise, fall, steady⟩

/-- Whether a line answered depends on the ASU state and the condition of its port alone. -/
theorem lineAnswers_congr {p : Port} {s t u : State} (attn : u.attn.get p = t.attn.get p)
    (condition : attnCondition u p = attnCondition t p) (h : lineAnswers p s t) : lineAnswers p s u := by
  simpa only [lineAnswers, attn, condition] using h

/-! ### The parts of one entry, and the notices that parts become -/

/-- The pending parts of the entry in one slot, if the port owns it, in the order of a drain (R96). -/
def partsAt (p : Port) (s : State) (h : Handle) : List (Handle × Half × Report) :=
  match slot s h with
  | some e => if e.owner = p then (e.summary.toList ++ e.terminal.toList).map fun r => (h, e.tag, r) else []
  | none => []

theorem pendingParts_eq (p : Port) (s : State) : pendingParts p s = allHandles.flatMap (partsAt p s) := rfl

theorem partsAt_of_owned {p : Port} {s : State} {h : Handle} {e : Entry} (at_h : slot s h = some e) (own : e.owner = p) :
    partsAt p s h = (e.summary.toList ++ e.terminal.toList).map fun r => (h, e.tag, r) := by
  simp [partsAt, at_h, own]

theorem partsAt_of_not_owned {p : Port} {s : State} {h : Handle} (other : ownedBy s p h = false) :
    partsAt p s h = [] := by
  unfold partsAt
  cases at_h : slot s h with
  | none => rfl
  | some e =>
    have : e.owner ≠ p := by simpa [ownedBy, at_h] using other
    simp [this]

theorem partsAt_congr {s t : State} {h : Handle} (same : slot t h = slot s h) (p : Port) :
    partsAt p t h = partsAt p s h := by
  simp [partsAt, same]

theorem asNotices_append (n : Half) (a b : List (Handle × Half × Report)) :
    asNotices n (a ++ b) = asNotices n a ++ asNotices (n + BitVec.ofNat 16 a.length) b := by
  simp only [asNotices, List.mapIdx_append]
  congr 1
  apply List.mapIdx_eq_mapIdx_iff.mpr
  intro i hi
  simp only [Notice.mk.injEq, and_true]
  rw [Nat.add_comm i, BitVec.ofNat_add]
  exact (BitVec.add_assoc _ _ _).symm

@[simp] theorem asNotices_length (n : Half) (a : List (Handle × Half × Report)) : (asNotices n a).length = a.length := by
  simp [asNotices]

theorem asNotices_undelivered (n : Half) (a : List (Handle × Half × Report)) : ∀ x ∈ asNotices n a, x.delivered = false := by
  intro x hx
  obtain ⟨i, hi, rfl⟩ := List.mem_mapIdx.mp hx
  rfl

/-- The room of a port's queue. -/
def roomOf (p : Port) (s : State) : Nat := 16 - (s.queues.get p).notices.length

theorem hasRoom_iff (s : State) (p : Port) : hasRoom s p = true ↔ 0 < roomOf p s := by
  rw [hasRoom, decide_eq_true_iff, queueDepth, roomOf]
  omega

theorem hasRoom_eq_false_iff (s : State) (p : Port) : hasRoom s p = false ↔ roomOf p s = 0 := by
  rw [← Bool.not_eq_true, hasRoom_iff]
  omega

theorem ownedBy_iff (s : State) (p : Port) (h : Handle) :
    ownedBy s p h = true ↔ ∃ e, slot s h = some e ∧ e.owner = p := by
  cases at_h : slot s h <;> simp [ownedBy, at_h]

/-- The fires of a pending summary. -/
def summaryFires (summary : Option Report) : Nat :=
  match summary with
  | some r => r.fires.toNat
  | none => 0

/-- The fires of the notices of a handle. -/
def noticeFires (h : Handle) (l : List Notice) : Nat :=
  ((l.filter fun n => n.handle == h).map fun n => n.report.fires.toNat).sum

theorem firesTotal_eq (p : Port) (h : Handle) (s : State) :
    firesTotal p h s = noticeFires h (s.queues.get p).notices + summaryFires ((slot s h).bind (·.summary)) := rfl

theorem noticeFires_append (h : Handle) (l k : List Notice) : noticeFires h (l ++ k) = noticeFires h l + noticeFires h k := by
  simp [noticeFires]

theorem noticeFires_one (h : Handle) (n : Notice) :
    noticeFires h [n] = if n.handle = h then n.report.fires.toNat else 0 := by
  by_cases same : n.handle = h <;> simp [noticeFires, same]

/-! ### Reports handed to the queue of one port -/

theorem AgendaWork.tbu_spm {s t : State} (h : AgendaWork s t) : t.tbu = s.tbu ∧ t.spm = s.spm := by
  obtain ⟨tbu, -, -, -, spm, -⟩ := h
  exact ⟨tbu, spm⟩

theorem AgendaWork.sameSetup {s t : State} (h : AgendaWork s t) (r : Port) :
    Machine.sameSetup (t.attn.get r) (s.attn.get r) := by
  obtain ⟨-, -, -, -, -, -, -, -, -, setup⟩ := h
  exact setup r

/-- Agenda work that leaves the NOTICE source of a port leaves its condition. -/
theorem AgendaWork.attnCondition {s t : State} (h : AgendaWork s t) {p : Port}
    (notice : noticeSource t p = noticeSource s p) : attnCondition t p = attnCondition s p := by
  obtain ⟨flags, -, enables, -⟩ := h.sameSetup p
  exact attnCondition_congr flags enables notice

/-- Agenda work that reaches the attention line of one port alone; `reported` says whether its queue took a report, which
makes the NOTICE source true, and the line answers that (R104). -/
structure LineWork (p : Port) (reported : Bool) (s t : State) : Prop where
  work : AgendaWork s t
  others : ∀ r, r ≠ p → t.attn.get r = s.attn.get r
  source : noticeSource s p = true → noticeSource t p = true
  idle : reported = false → t.attn = s.attn ∧ noticeSource t p = noticeSource s p
  answers : reported = true → noticeSource t p = true ∧ lineAnswers p s t

theorem LineWork.of_idle {p : Port} {s t : State} (work : AgendaWork s t) (attn : t.attn = s.attn)
    (queue : t.queues.get p = s.queues.get p) : LineWork p false s t := by
  have same : noticeSource t p = noticeSource s p := by simp [noticeSource, queue]
  exact ⟨work, fun _ _ => by rw [attn], fun h => same.trans h, fun _ => ⟨attn, same⟩, fun h => by simp at h⟩

theorem LineWork.refl (p : Port) (s : State) : LineWork p false s s := .of_idle (.refl s) rfl rfl

theorem LineWork.trans {p : Port} {b c : Bool} {s t u : State} (h : LineWork p b s t) (k : LineWork p c t u) :
    LineWork p (b || c) s u where
  work := h.work.trans k.work
  others := fun r hr => (k.others r hr).trans (h.others r hr)
  source := fun hs => k.source (h.source hs)
  idle := fun none => by
    obtain ⟨hb, hc⟩ := Bool.or_eq_false_iff.mp none
    exact ⟨(k.idle hc).1.trans (h.idle hb).1, (k.idle hc).2.trans (h.idle hb).2⟩
  answers := fun _ => by
    obtain ⟨tbu, spm⟩ := h.work.tbu_spm
    cases c with
    | false =>
      obtain rfl : b = true := by simpa using ‹(b || false) = true›
      obtain ⟨source, answers⟩ := h.answers rfl
      obtain ⟨attn, same⟩ := k.idle rfl
      exact ⟨same.trans source, lineAnswers_congr (by rw [attn]) (k.work.attnCondition same) answers⟩
    | true =>
      obtain ⟨source', answers'⟩ := k.answers rfl
      refine ⟨source', ?_⟩
      cases b with
      | false =>
        obtain ⟨attn, same⟩ := h.idle rfl
        have condition := h.work.attnCondition same
        simpa [lineAnswers, attn, condition, tbu, spm] using answers'
      | true =>
        obtain ⟨source, answers⟩ := h.answers rfl
        exact answers.trans answers' spm (k.work.sameSetup p).2.2.2 (k.work.attnCondition (source'.trans source.symm))

/-- A queue that is replaced by one with an UNDELIVERED notice has taken a report (R104). -/
theorem replaceQueue_line {p : Port} {q : NoticeQueue} (s : State) (fresh : ∃ n ∈ q.notices, n.delivered = false) :
    LineWork p true s (replaceQueue p q s) := by
  have source : noticeSource (replaceQueue p q s) p = true := by
    rw [noticeSource_iff]
    simpa using fresh
  exact ⟨replaceQueue_work _ _ _, fun r hr => by
      rw [replaceQueue, followAttention_other _ _ _ _ hr, State.setQueue_attn],
    fun _ => source, fun h => by simp at h, fun _ => ⟨source, lineAnswers_replaceQueue p q s⟩⟩

theorem appendNotice_line (p : Port) (h : Handle) (tag : Half) (r : Report) (s : State) :
    LineWork p true s (appendNotice p h tag r s) :=
  replaceQueue_line s ⟨newNotice (s.queues.get p) h tag r, by simp [newNotice], rfl⟩

theorem updateParts_line (p : Port) (h : Handle) (f : EntryParts → EntryParts) (s : State) :
    LineWork p false s (updateParts h f s) :=
  .of_idle (updateParts_work _ _ _) (by simp) (by simp)

/-! ### What a drain has done -/

/-- A drain of a port took `s` to `t` and moved these parts to the back of the queue. -/
structure Drained (p : Port) (moved : List (Handle × Half × Report)) (s t : State) : Prop where
  queue : t.queues.get p =
    ⟨(s.queues.get p).notices ++ asNotices (s.queues.get p).nextSeq moved,
      (s.queues.get p).nextSeq + BitVec.ofNat 16 moved.length⟩
  queues : ∀ r, r ≠ p → t.queues.get r = s.queues.get r
  line : LineWork p (decide (moved ≠ [])) s t
  agenda : t.agu.agenda = s.agu.agenda
  strobes : t.strobes = s.strobes
  free : ∀ h, slot s h = none → slot t h = none
  entries : ∀ h e, slot s h = some e → ∃ e', slot t h = some e' ∧ sameFixedFields e' e ∧ e'.status = e.status ∧
    e'.missed = e.missed ∧ (e.owner ≠ p → e' = e)
  fires : ∀ h, (∀ e r, slot s h = some e → e.terminal = some r → r.fires = 0) →
    firesTotal p h t = firesTotal p h s ∧ ∀ e r, slot t h = some e → e.terminal = some r → r.fires = 0

theorem sameFixedFields.refl (e : Entry) : sameFixedFields e e := ⟨rfl, rfl, rfl, rfl, rfl, rfl, rfl⟩

theorem sameFixedFields.trans {a b c : Entry} (h : sameFixedFields a b) (k : sameFixedFields b c) : sameFixedFields a c := by
  obtain ⟨h1, h2, h3, h4, h5, h6, h7⟩ := h
  obtain ⟨k1, k2, k3, k4, k5, k6, k7⟩ := k
  exact ⟨h1.trans k1, h2.trans k2, h3.trans k3, h4.trans k4, h5.trans k5, h6.trans k6, h7.trans k7⟩

theorem Drained.refl (p : Port) (s : State) : Drained p [] s s where
  queue := by simp [asNotices]
  queues := fun _ _ => rfl
  line := .refl p s
  agenda := rfl
  strobes := rfl
  free := fun _ h => h
  entries := fun _ e h => ⟨e, h, .refl e, rfl, rfl, fun _ => rfl⟩
  fires := fun _ none => ⟨rfl, none⟩

theorem Drained.trans {p : Port} {m n : List (Handle × Half × Report)} {s t u : State} (h : Drained p m s t)
    (k : Drained p n t u) : Drained p (m ++ n) s u where
  queue := by
    rw [k.queue, h.queue, asNotices_append, List.length_append, BitVec.ofNat_add]
    simp only [List.append_assoc, BitVec.add_assoc]
  queues := fun r hr => (k.queues r hr).trans (h.queues r hr)
  line := by
    have both := h.line.trans k.line
    have moved : (decide (m ≠ []) || decide (n ≠ [])) = decide (m ++ n ≠ []) := by
      cases m <;> cases n <;> rfl
    rwa [moved] at both
  agenda := k.agenda.trans h.agenda
  strobes := k.strobes.trans h.strobes
  free := fun g hg => k.free g (h.free g hg)
  entries := by
    intro g e at_g
    obtain ⟨e', at_t, fixed, status, missed, other⟩ := h.entries g e at_g
    obtain ⟨e'', at_u, fixed', status', missed', other'⟩ := k.entries g e' at_t
    refine ⟨e'', at_u, fixed'.trans fixed, status'.trans status, missed'.trans missed, fun ne => ?_⟩
    have owner : e'.owner = e.owner := fixed.1
    rw [other' (by rwa [owner]), other ne]
  fires := fun g none => by
    obtain ⟨total, none'⟩ := h.fires g none
    obtain ⟨total', none''⟩ := k.fires g none'
    exact ⟨total'.trans total, none''⟩

/-! ### One part -/

/-- A part that is appended as a notice and leaves its entry: one place of the queue for one part. -/
theorem drained_one {p : Port} {h : Handle} {s : State} {e : Entry} {r : Report} (f : EntryParts → EntryParts)
    (at_h : slot s h = some e) (own : e.owner = p) (missed : (f e.parts).missed = e.missed)
    (fires : (∀ x, e.terminal = some x → x.fires = 0) →
      r.fires.toNat + summaryFires (f e.parts).summary = summaryFires e.summary)
    (terminal : ∀ x, (f e.parts).terminal = some x → e.terminal = some x) :
    Drained p [(h, e.tag, r)] s (updateParts h f (appendNotice p h e.tag r s)) where
  queue := by simp [asNotices, newNotice]
  queues := fun q hq => by simp [hq]
  line := (appendNotice_line p h e.tag r s).trans (updateParts_line p h f _)
  agenda := by simp
  strobes := by simp
  free := fun g free => by
    have ne : g ≠ h := by rintro rfl; simp [at_h] at free
    simpa [ne] using free
  entries := by
    intro g x at_g
    by_cases same : g = h
    · subst same
      obtain rfl : e = x := by simpa [at_h] using at_g
      exact ⟨e.withParts (f e.parts), by simp [at_h], by simp [sameFixedFields], by simp, by simpa using missed,
        fun ne => absurd own ne⟩
    · exact ⟨x, by simpa [same] using at_g, .refl x, rfl, rfl, fun _ => rfl⟩
  fires := by
    intro g none
    have queue : (updateParts h f (appendNotice p h e.tag r s)).queues.get p =
        ⟨(s.queues.get p).notices ++ [⟨(s.queues.get p).nextSeq, h, e.tag, r, false⟩],
          (s.queues.get p).nextSeq + 1⟩ := by simp [newNotice]
    rw [firesTotal_eq, firesTotal_eq, queue]
    simp only [noticeFires_append, noticeFires_one]
    by_cases same : g = h
    · subst same
      have kept := fires fun x hx => none e x at_h hx
      refine ⟨?_, fun e' x at_t hx => ?_⟩
      · simp only [slot_updateParts, slot_appendNotice, if_true, at_h, Option.map_some, Option.bind_some,
          Entry.withParts_keeps]
        omega
      · obtain rfl : e.withParts (f e.parts) = e' := by simpa [at_h] using at_t
        exact none e x at_h (terminal x (by simpa using hx))
    · refine ⟨by simp [same, Ne.symm same], fun e' x at_t hx => none e' x (by simpa [same] using at_t) hx⟩

/-! ### One entry -/

theorem Entry.with_summary_self {e : Entry} {x : Option Report} (h : e.summary = x) : { e with summary := x } = e := by
  rw [← h]

theorem Entry.with_pending_self {e : Entry} {x y : Option Report} (hx : e.summary = x) (hy : e.terminal = y) :
    { e with summary := x, terminal := y } = e := by
  rw [← hx, ← hy]

section Visit
variable {p : Port} {h : Handle} {s : State}

/-- Step 1 of a drain at an entry of the port moves its summary, if there is one and room (R96). -/
theorem drainSummary_drained {e : Entry} (at_h : slot s h = some e) (own : e.owner = p) :
    Drained p ((e.summary.toList.map fun r => (h, e.tag, r)).take (roomOf p s)) s (drainSummary p h s) ∧
      slot (drainSummary p h s) h =
        some { e with summary := if roomOf p s = 0 then e.summary else none } ∧
      ∀ g, g ≠ h → slot (drainSummary p h s) g = slot s g := by
  cases summary : e.summary with
  | none =>
    have idle : drainSummary p h s = s := by simp [drainSummary, at_h, summary]
    rw [idle]
    refine ⟨by simpa using Drained.refl p s, ?_, fun _ _ => rfl⟩
    rw [at_h, ite_self, Entry.with_summary_self summary]
  | some r =>
    by_cases full : roomOf p s = 0
    · have idle : drainSummary p h s = s := by
        have no_room : hasRoom s p = false := (hasRoom_eq_false_iff s p).mpr full
        simp [drainSummary, at_h, summary, no_room]
      rw [idle, full]
      refine ⟨Drained.refl p s, ?_, fun _ _ => rfl⟩
      rw [at_h, if_pos rfl, Entry.with_summary_self summary]
    · have room : hasRoom s p = true := by rw [hasRoom_iff]; omega
      have moves : drainSummary p h s =
          updateParts h (fun x => { x with summary := none }) (appendNotice p h e.tag r s) := by
        simp [drainSummary, at_h, summary, room]
      have one : (Option.toList (some r) |>.map fun r => (h, e.tag, r)).take (roomOf p s) = [(h, e.tag, r)] := by
        simp [List.take_of_length_le, Nat.one_le_iff_ne_zero, full]
      rw [moves, one]
      refine ⟨drained_one _ at_h own rfl (fun _ => by simp [summary, summaryFires]) fun x hx => hx, ?_, fun g ne => by simp [ne]⟩
      simp [at_h, full, Entry.withParts, Entry.parts]

/-- Step 2 of a drain at an entry of the port moves its terminal pending, if it has no summary and there is room (R96). -/
theorem drainTerminal_drained {e : Entry} (at_h : slot s h = some e) (own : e.owner = p) :
    Drained p (if e.summary = none then (e.terminal.toList.map fun r => (h, e.tag, r)).take (roomOf p s) else []) s
        (drainTerminal p h s) ∧
      slot (drainTerminal p h s) h =
        some { e with terminal := if e.summary = none ∧ roomOf p s ≠ 0 then none else e.terminal } ∧
      ∀ g, g ≠ h → slot (drainTerminal p h s) g = slot s g := by
  cases summary : e.summary with
  | some r =>
    have idle : drainTerminal p h s = s := by simp [drainTerminal, at_h, summary]
    rw [idle]
    refine ⟨Drained.refl p s, ?_, fun _ _ => rfl⟩
    rw [at_h, if_neg (by simp), Entry.with_summary_self summary]
  | none =>
    cases terminal : e.terminal with
    | none =>
      have idle : drainTerminal p h s = s := by simp [drainTerminal, at_h, summary, terminal]
      rw [idle]
      refine ⟨by simpa using Drained.refl p s, ?_, fun _ _ => rfl⟩
      rw [at_h, ite_self, Entry.with_pending_self summary terminal]
    | some r =>
      by_cases full : roomOf p s = 0
      · have idle : drainTerminal p h s = s := by
          have no_room : hasRoom s p = false := (hasRoom_eq_false_iff s p).mpr full
          simp [drainTerminal, at_h, summary, terminal, no_room]
        rw [idle, full]
        refine ⟨Drained.refl p s, ?_, fun _ _ => rfl⟩
        rw [at_h, if_neg (by simp), Entry.with_pending_self summary terminal]
      · have room : hasRoom s p = true := by rw [hasRoom_iff]; omega
        have moves : drainTerminal p h s =
            updateParts h (fun x => { x with terminal := none }) (appendNotice p h e.tag r s) := by
          simp [drainTerminal, at_h, summary, terminal, room]
        have one : (Option.toList (some r) |>.map fun r => (h, e.tag, r)).take (roomOf p s) = [(h, e.tag, r)] := by
          simp [List.take_of_length_le, Nat.one_le_iff_ne_zero, full]
        rw [moves, one, if_pos rfl]
        refine ⟨drained_one _ at_h own rfl (fun none => ?_) (fun x hx => by simp at hx), ?_, fun g ne => by simp [ne]⟩
        · simp [none r terminal, Entry.parts, summary, summaryFires]
        · simp [at_h, full, Entry.withParts, Entry.parts, summary]

/-- The visit of a drain at one handle. -/
def drainVisit (p : Port) (s : State) (h : Handle) : State :=
  if ownedBy s p h then drainTerminal p h (drainSummary p h s) else s

theorem drain_eq (p : Port) (s : State) : drain p s = allHandles.foldl (drainVisit p) s := rfl

/-- The room after a drain. -/
theorem Drained.room {m : List (Handle × Half × Report)} {t : State} (k : Drained p m s t) :
    roomOf p t = roomOf p s - m.length := by
  rw [roomOf, k.queue, roomOf]
  simp only [List.length_append, asNotices_length]
  omega

/-- The visit of one handle moves what finds room of its parts, in order, and leaves the rest and every other slot (R96). -/
theorem drainVisit_drained (p : Port) (s : State) (h : Handle) :
    Drained p ((partsAt p s h).take (roomOf p s)) s (drainVisit p s h) ∧
      partsAt p (drainVisit p s h) h = (partsAt p s h).drop (roomOf p s) ∧
      ∀ g, g ≠ h → slot (drainVisit p s h) g = slot s g := by
  cases owned : ownedBy s p h with
  | false =>
    have idle : drainVisit p s h = s := by simp [drainVisit, owned]
    rw [idle, partsAt_of_not_owned owned]
    exact ⟨by simpa using Drained.refl p s, by simp, fun _ _ => rfl⟩
  | true =>
    obtain ⟨e, at_h, own⟩ := (ownedBy_iff s p h).mp owned
    have steps : drainVisit p s h = drainTerminal p h (drainSummary p h s) := by simp [drainVisit, owned]
    obtain ⟨first, at_h', others⟩ := drainSummary_drained at_h own
    obtain ⟨second, at_h'', others'⟩ := drainTerminal_drained at_h' own
    rw [steps, partsAt_of_owned at_h own, partsAt_of_owned at_h'' own]
    refine ⟨?_, ?_, fun g ne => (others' g ne).trans (others g ne)⟩
    · have both := first.trans second
      rw [first.room] at both
      convert both using 1
      obtain full | ⟨k, room⟩ : roomOf p s = 0 ∨ ∃ k, roomOf p s = k + 1 := Nat.eq_zero_or_eq_succ_pred _ |>.imp_right (⟨_, ·⟩)
      · simp [full]
      · cases e.summary <;> simp [room]
    · simp only [first.room, List.length_take, List.length_map]
      obtain full | ⟨k, room⟩ : roomOf p s = 0 ∨ ∃ k, roomOf p s = k + 1 := Nat.eq_zero_or_eq_succ_pred _ |>.imp_right (⟨_, ·⟩)
      · simp [full]
      · cases e.summary <;> cases e.terminal <;> cases k <;> simp [room]

/-- A drain over a list of handles moves what finds room of their parts, in order, and leaves the rest (R96). -/
theorem foldl_drainVisit (p : Port) (l : List Handle) (nodup : l.Nodup) (s : State) :
    Drained p ((l.flatMap (partsAt p s)).take (roomOf p s)) s (l.foldl (drainVisit p) s) ∧
      l.flatMap (partsAt p (l.foldl (drainVisit p) s)) = (l.flatMap (partsAt p s)).drop (roomOf p s) ∧
      ∀ g, g ∉ l → slot (l.foldl (drainVisit p) s) g = slot s g := by
  induction l generalizing s with
  | nil => exact ⟨by simpa using Drained.refl p s, by simp, fun _ _ => rfl⟩
  | cons h l ih =>
    obtain ⟨fresh, nodup'⟩ := List.nodup_cons.mp nodup
    obtain ⟨first, rest_h, others⟩ := drainVisit_drained p s h
    obtain ⟨later, rest_l, others'⟩ := ih nodup' (drainVisit p s h)
    have parts_l : l.flatMap (partsAt p (drainVisit p s h)) = l.flatMap (partsAt p s) :=
      List.flatMap_congr fun g hg => partsAt_congr (others g fun same => fresh (same ▸ hg)) p
    have room : roomOf p (drainVisit p s h) = roomOf p s - (partsAt p s h).length := by
      rw [first.room, List.length_take]
      omega
    have rest_h' : partsAt p (l.foldl (drainVisit p) (drainVisit p s h)) h = (partsAt p s h).drop (roomOf p s) :=
      (partsAt_congr (others' h fresh) p).trans rest_h
    rw [parts_l, room] at later rest_l
    simp only [List.foldl_cons, List.flatMap_cons, List.take_append, List.drop_append]
    refine ⟨first.trans later, by rw [rest_h', rest_l], fun g hg => ?_⟩
    rw [List.mem_cons, not_or] at hg
    exact (others' g hg.2).trans (others g hg.1)

end Visit

/-! ### The drain of a port -/

theorem allHandles_nodup : allHandles.Nodup := List.nodup_finRange 96

/-- A drain moves what finds room of the pending parts, in order, and leaves the rest (R96). -/
theorem drain_drained (p : Port) (s : State) :
    Drained p ((pendingParts p s).take (roomOf p s)) s (drain p s) ∧
      pendingParts p (drain p s) = (pendingParts p s).drop (roomOf p s) := by
  have ⟨drained, rest, _⟩ := foldl_drainVisit p allHandles allHandles_nodup s
  rw [drain_eq, pendingParts_eq, pendingParts_eq]
  exact ⟨drained, rest⟩

theorem mem_allHandles (h : Handle) : h ∈ allHandles := List.mem_finRange h

/-- Where a port has no pending part, none of its entries has one. -/
theorem no_parts_of_pendingParts {p : Port} {s : State} (empty : pendingParts p s = []) {h : Handle} {e : Entry}
    (at_h : slot s h = some e) (own : e.owner = p) : e.summary = none ∧ e.terminal = none := by
  have here : partsAt p s h = [] := List.flatMap_eq_nil_iff.mp empty h (mem_allHandles h)
  rw [partsAt_of_owned at_h own, List.map_eq_nil_iff, List.append_eq_nil_iff] at here
  simpa using here

/-- A drain that leaves room leaves no pending part (R96). -/
theorem no_parts_of_drain_room {p : Port} {s : State} (room : hasRoom (drain p s) p = true) :
    pendingParts p (drain p s) = [] := by
  obtain ⟨drained, rest⟩ := drain_drained p s
  rw [hasRoom_iff, drained.room, List.length_take] at room
  rw [rest, List.drop_eq_nil_iff]
  omega

/-- Settles O34: a drain visits the handles in order, and each visit moves what finds room of the parts of its entry. -/
theorem drainEmptiesPendingParts : Obligations.DrainEmptiesPendingParts := by
  intro p s
  obtain ⟨drained, rest⟩ := drain_drained p s
  obtain ⟨tbu, lease, pru, ports, spm, draws, pending, state, held, -⟩ := drained.line.work
  have notices : ((drain p s).queues.get p).notices = _ := congrArg NoticeQueue.notices drained.queue
  have nextSeq : ((drain p s).queues.get p).nextSeq = _ := congrArg NoticeQueue.nextSeq drained.queue
  refine ⟨⟨_, notices, asNotices_undelivered _ _, rfl, by rw [nextSeq, asNotices_length]⟩, rest, fun room h e at_h own => ?_,
    fun h none => (drained.fires h none).1, drained.queues, fun h => ⟨drained.free h, drained.entries h⟩, tbu, lease, ports,
    pru, spm, drained.strobes, drained.agenda, state, held, draws, pending, drained.line.others, drained.line.work.sameSetup p,
    fun same => ?_, fun changed => drained.line.answers (decide_eq_true fun none => ?_)⟩
  · exact no_parts_of_pendingParts (no_parts_of_drain_room room) at_h own
  · have moved := congrArg List.length (notices.symm.trans same)
    simp only [List.length_append, asNotices_length] at moved
    have none : (pendingParts p s).take (roomOf p s) = [] := List.eq_nil_of_length_eq_zero (by omega)
    exact (drained.line.idle (by rw [none]; rfl)).1
  · rw [notices, none] at changed
    simp [asNotices] at changed

end Sys2Proof.Machine
end

section
/-! PROOFS. The slots that a release frees (R48, R97), and ACK_NOTICES (R100, R101). -/

-- One proof after the other: the memory limit of the check bounds the threads of Lean.
set_option Elab.async false

namespace Sys2Proof.Machine

/-! ### Freeing the slots that a condition picks out -/

/-- Free the slot of a handle if its record meets a condition. -/
def freeIf (c : Handle → Option Entry → Bool) (s : State) (h : Handle) : State :=
  if c h (slot s h) = true then putSlot h none s else s

theorem freeIf_same (c : Handle → Option Entry → Bool) (s : State) (h : Handle) : SameButAgu s (freeIf c s h) := by
  unfold freeIf
  split
  · exact putSlot_same _ _ _
  · exact .refl s

theorem slot_freeIf (c : Handle → Option Entry → Bool) (s : State) (h g : Handle) :
    slot (freeIf c s h) g = if g = h ∧ c g (slot s g) = true then none else slot s g := by
  unfold freeIf
  by_cases same : g = h
  · subst same
    split_ifs <;> simp_all
  · split_ifs <;> simp_all

theorem putSlot_none_agenda (h : Handle) (s : State) :
    (putSlot h none s).agu.agenda = s.agu.agenda.filter fun g => g != h := rfl

/-- A run that frees handles of a list: what each slot holds, and who is left in the agenda. -/
theorem foldl_freeIf (c : Handle → Option Entry → Bool) (l : List Handle) (nodup : l.Nodup) (s : State) :
    SameButAgu s (l.foldl (freeIf c) s) ∧
      (l.foldl (freeIf c) s).agu.state = s.agu.state ∧ (l.foldl (freeIf c) s).agu.held = s.agu.held ∧
      (∀ g, slot (l.foldl (freeIf c) s) g = if g ∈ l ∧ c g (slot s g) = true then none else slot s g) ∧
      (l.foldl (freeIf c) s).agu.agenda = s.agu.agenda.filter fun g => !(decide (g ∈ l) && c g (slot s g)) := by
  induction l generalizing s with
  | nil => exact ⟨.refl s, rfl, rfl, by simp, by simp⟩
  | cons h l ih =>
    obtain ⟨fresh, nodup'⟩ := List.nodup_cons.mp nodup
    obtain ⟨same, state, held, slots, agenda⟩ := ih nodup' (freeIf c s h)
    have state' : (freeIf c s h).agu.state = s.agu.state ∧ (freeIf c s h).agu.held = s.agu.held := by
      unfold freeIf; split <;> simp
    have agenda' : (freeIf c s h).agu.agenda = s.agu.agenda.filter fun g => !(g == h && c g (slot s g)) := by
      unfold freeIf
      split
      · next met =>
        rw [putSlot_none_agenda]
        refine List.filter_congr fun g _ => ?_
        rw [Bool.eq_iff_iff]
        by_cases at_h : g = h <;> simp [at_h, met]
      · next unmet =>
        refine (List.filter_eq_self.mpr fun g _ => ?_).symm
        by_cases at_h : g = h <;> simp [at_h, unmet]
    refine ⟨(freeIf_same c s h).trans same, state.trans state'.1, held.trans state'.2, fun g => ?_, ?_⟩
    · rw [List.foldl_cons, slots g, slot_freeIf]
      by_cases at_h : g = h
      · subst at_h
        simp [fresh]
      · simp [at_h]
    · rw [List.foldl_cons, agenda, agenda', List.filter_filter]
      refine List.filter_congr fun g _ => ?_
      rw [slot_freeIf]
      by_cases at_h : g = h
      · subst at_h
        simp [fresh]
      · simp [at_h]

/-- Free every slot whose record meets a condition. -/
def freeWhere (c : Handle → Option Entry → Bool) (s : State) : State := allHandles.foldl (freeIf c) s

theorem freeWhere_same (c : Handle → Option Entry → Bool) (s : State) : SameButAgu s (freeWhere c s) :=
  (foldl_freeIf c allHandles allHandles_nodup s).1

theorem slot_freeWhere (c : Handle → Option Entry → Bool) (s : State) (g : Handle) :
    slot (freeWhere c s) g = if c g (slot s g) = true then none else slot s g := by
  have ⟨_, _, _, slots, _⟩ := foldl_freeIf c allHandles allHandles_nodup s
  rw [freeWhere, slots g]
  simp only [mem_allHandles, true_and]

theorem freeWhere_agu (c : Handle → Option Entry → Bool) (s : State) :
    (freeWhere c s).agu.state = s.agu.state ∧ (freeWhere c s).agu.held = s.agu.held ∧
      (freeWhere c s).agu.agenda = s.agu.agenda.filter fun g => !c g (slot s g) := by
  have ⟨_, state, held, _, agenda⟩ := foldl_freeIf c allHandles allHandles_nodup s
  refine ⟨state, held, ?_⟩
  rw [freeWhere, agenda]
  simp only [mem_allHandles, decide_true, Bool.true_and]

/-! ### R48 for every entry of a port -/

/-- An entry of a port that R48 releases: ENDED without a reference. -/
def isReleasable (p : Port) (s : State) (h : Handle) (x : Option Entry) : Bool :=
  x.any fun e => e.owner == p && isEnded e && !hasReference s h e

theorem hasReference_congr {s t : State} (queues : t.queues = s.queues) (h : Handle) (e : Entry) :
    hasReference t h e = hasReference s h e := by
  simp [hasReference, noticesFor, queues]

theorem releaseEnded_eq_freeWhere (p : Port) (s : State) : releaseEnded p s = freeWhere (isReleasable p s) s := by
  suffices h : ∀ (l : List Handle) (t : State), t.queues = s.queues →
      l.foldl (fun s h => if ownedBy s p h then releaseIfDone h s else s) t = l.foldl (freeIf (isReleasable p s)) t from
    h allHandles s rfl
  intro l
  induction l with
  | nil => exact fun _ _ => rfl
  | cons h l ih =>
    intro t queues
    have visit : (if ownedBy t p h then releaseIfDone h t else t) = freeIf (isReleasable p s) t h := by
      unfold freeIf releaseIfDone isReleasable ownedBy
      cases slot t h with
      | none => simp
      | some e => by_cases own : e.owner = p <;> simp [own, hasReference_congr queues]
    rw [List.foldl_cons, List.foldl_cons, visit]
    refine ih _ ?_
    obtain ⟨-, -, same, -⟩ := freeIf_same (isReleasable p s) t h
    exact same.trans queues

theorem hasReference_eq_false_iff (s : State) (h : Handle) (e : Entry) :
    hasReference s h e = false ↔
      (∀ n ∈ (s.queues.get e.owner).notices, n.handle ≠ h) ∧ e.summary = none ∧ e.terminal = none := by
  simp [hasReference, noticesFor, and_assoc]

theorem isEnded_iff (e : Entry) : isEnded e = true ↔ ∃ cause, e.status = .ended cause := by
  cases status : e.status <;> simp [isEnded, dueOf, status]

theorem isReleasable_iff (p : Port) (s : State) (h : Handle) :
    isReleasable p s h (slot s h) = true ↔
      ∃ e cause, slot s h = some e ∧ e.owner = p ∧ e.status = .ended cause ∧
        (∀ n ∈ (s.queues.get p).notices, n.handle ≠ h) ∧ e.summary = none ∧ e.terminal = none := by
  cases at_h : slot s h with
  | none => simp [isReleasable]
  | some e =>
    simp only [isReleasable, Option.any_some, Bool.and_eq_true, beq_iff_eq, Bool.not_eq_true', isEnded_iff,
      hasReference_eq_false_iff, Option.some.injEq, and_assoc]
    constructor
    · rintro ⟨rfl, ⟨cause, ended⟩, rest⟩
      exact ⟨e, cause, rfl, rfl, ended, rest⟩
    · rintro ⟨_, cause, rfl, rfl, ended, rest⟩
      exact ⟨rfl, ⟨cause, ended⟩, rest⟩

theorem slot_releaseEnded (p : Port) (s : State) (h : Handle) :
    slot (releaseEnded p s) h = if isReleasable p s h (slot s h) = true then none else slot s h := by
  rw [releaseEnded_eq_freeWhere, slot_freeWhere]

theorem releaseEnded_agenda (p : Port) (s : State) :
    (releaseEnded p s).agu.agenda = s.agu.agenda.filter fun h => !isReleasable p s h (slot s h) := by
  rw [releaseEnded_eq_freeWhere, (freeWhere_agu _ _).2.2]

theorem Agu.eta (x : Agu) : x = ⟨x.store, x.agenda, x.state, x.held⟩ := rfl

/-- A release changes the slots and the agenda alone (R97). -/
theorem releaseEnded_eq (p : Port) (s : State) :
    releaseEnded p s = { s with agu := { s.agu with
      store := (releaseEnded p s).agu.store
      agenda := s.agu.agenda.filter fun h => !isReleasable p s h (slot s h) } } := by
  have agu := Agu.eta (releaseEnded p s).agu
  rw [releaseEnded_agenda, (releaseEnded_agu p s).1, (releaseEnded_agu p s).2] at agu
  conv_lhs => rw [(releaseEnded_same p s).eq, agu]
  rfl

/-! ### ACK_NOTICES -/

/-- A ready port hands ACK_NOTICES to the Notice Unit, not held (R177, R178). -/
theorem exec_ackNotices {p : Port} {snap : Snapshot} {s : State} (seq : Byte) {payload : List Byte}
    (ready : Ready p snap s) (length : payload.length = 2) :
    exec (.ackNotices p seq payload) s =
      .next (runAckNotices p payload (outstanding p snap 0x31 seq payload false s)) := by
  have known : payloadLength codeAckNotices = some payload.length := by rw [length]; rfl
  exact congrArg Host.Outcome.next (sendRequest_runs seq ready known)

/-- The place of the named notice is the first DELIVERED one with its sequence number (R100). -/
theorem deliveredIndex_eq_some {x : Half} {l : List Notice} {i : Nat} {n : Notice} (at_i : l[i]? = some n)
    (seq : n.seq = x) (delivered : n.delivered = true)
    (first : ∀ j m, j < i → l[j]? = some m → m.seq = x → m.delivered = false) : deliveredIndex x l = some i := by
  rw [deliveredIndex, List.findIdx?_eq_some_iff_getElem]
  obtain ⟨hi, rfl⟩ := List.getElem?_eq_some_iff.mp at_i
  refine ⟨hi, by simp [seq, delivered], fun j hj => ?_⟩
  have := first j l[j] hj (List.getElem?_eq_getElem _)
  by_cases same : l[j].seq = x <;> simp_all

theorem deliveredIndex_eq_none {x : Half} {l : List Notice} (unnamed : ∀ n ∈ l, n.seq = x → n.delivered = false) :
    deliveredIndex x l = none := by
  rw [deliveredIndex, List.findIdx?_eq_none_iff]
  intro n hn
  by_cases same : n.seq = x
  · simp [unnamed n hn same]
  · simp [same]

/-- The state after the notices through place `i` were removed, with the drain and the release (R100). -/
def acknowledgedThrough (p : Port) (i : Nat) (s : State) : State :=
  releaseEnded p (drain p (replaceQueue p { s.queues.get p with notices := (s.queues.get p).notices.drop (i + 1) } s))

theorem runAckNotices_of_index {p : Port} {payload : List Byte} {s : State} {i : Nat}
    (named : deliveredIndex (BitVec.ofNat 16 (numField payload 0 2)) (s.queues.get p).notices = some i) :
    runAckNotices p payload s =
      complete p .ok
        [BitVec.ofNat 8 (i + 1), BitVec.ofNat 8 ((acknowledgedThrough p i s).queues.get p).notices.length,
          BitVec.ofNat 8 (undeliveredCount ((acknowledgedThrough p i s).queues.get p).notices)]
        (acknowledgedThrough p i s) := by
  simp [runAckNotices, named, acknowledgedThrough]

theorem runAckNotices_of_unnamed {p : Port} {payload : List Byte} {s : State}
    (unnamed : deliveredIndex (BitVec.ofNat 16 (numField payload 0 2)) (s.queues.get p).notices = none) :
    runAckNotices p payload s = complete p .badSeq [] s := by
  simp [runAckNotices, unnamed]

/-- The Notice Unit does not look at the port. -/
theorem acknowledgedThrough_outstanding (p : Port) (snap : Snapshot) (code seq : Byte) (payload : List Byte) (held : Bool)
    (i : Nat) (s : State) :
    acknowledgedThrough p i (outstanding p snap code seq payload held s) =
      outstanding p snap code seq payload held (acknowledgedThrough p i s) := by
  simp [acknowledgedThrough, outstanding, transacted]

/-- Settles O33: a release is a run over the slots that frees those that R48 names; ACK_NOTICES is split by whether it
names a DELIVERED notice. -/
theorem ackNoticesRemovesThroughTheNamed : Obligations.AckNoticesRemovesThroughTheNamed := by
  refine ⟨fun p s freed names => ?_, fun p snap s seq x ready => ?_⟩
  · have freed_eq : ∀ h, freed h = isReleasable p s h (slot s h) := fun h =>
      Bool.eq_iff_iff.mpr ((names h).trans (isReleasable_iff p s h).symm)
    refine ⟨fun h => by rw [slot_releaseEnded, freed_eq], ?_⟩
    conv_lhs => rw [releaseEnded_eq]
    simp only [freed_eq]
  · have number : BitVec.ofNat 16 (numField (toBytes 2 x.toNat) 0 2) = x := by
      rw [numField_toBytes x.isLt, BitVec.ofNat_toNat, BitVec.setWidth_eq]
    rw [exec_ackNotices seq ready (toBytes_length 2 _)]
    refine ⟨fun unnamed => ?_, fun i n at_i named delivered first => ⟨acknowledgedThrough p i s, rfl, ?_⟩⟩
    · rw [runAckNotices_of_unnamed (by simpa [number] using deliveredIndex_eq_none unnamed), complete_outstanding]
    · rw [runAckNotices_of_index (i := i) (by simpa [number] using deliveredIndex_eq_some at_i named delivered first),
        acknowledgedThrough_outstanding, complete_outstanding, (outstanding_frame ..).2.2.2.1]
      rfl

end Sys2Proof.Machine
end

section
/-! PROOFS. What a firing makes of its entry, its owner's queue and line (R61 to R66, R90 to R93). -/

-- One proof after the other: the memory limit of the check bounds the threads of Lean.
set_option Elab.async false

namespace Sys2Proof.Machine

/-! ### Release of one entry (R48) -/

section Release
variable {h : Handle} {e : Entry} {s : State}

theorem releaseIfDone_of_kept (at_h : slot s h = some e) (kept : isEnded e = false ∨ hasReference s h e = true) :
    releaseIfDone h s = s := by
  rcases kept with kept | kept <;> simp [releaseIfDone, at_h, kept]

theorem releaseIfDone_of_done (at_h : slot s h = some e) (ended : isEnded e = true) (alone : hasReference s h e = false) :
    releaseIfDone h s = putSlot h none s := by
  simp [releaseIfDone, at_h, ended, alone]

theorem setStatus_of_slot (at_h : slot s h = some e) (st : EntryStatus) :
    setStatus h st s = putSlot h (some { e with status := st }) s := by
  simp [setStatus, at_h]

/-- References are notices of the handle and pending parts, whatever the status and the accumulator (R48). -/
theorem hasReference_of_parts {t : State} {e' : Entry} (queues : t.queues = s.queues) (owner : e'.owner = e.owner)
    (summary : e'.summary = e.summary) (terminal : e'.terminal = e.terminal) :
    hasReference t h e' = hasReference s h e := by
  simp [hasReference, noticesFor, queues, owner, summary, terminal]

end Release

/-! ### Reports taken -/

/-- The queue of a port takes the firing occurrence of an entry (R92). -/
def takesOccurrence (s : State) (p : Port) (h : Handle) : Bool :=
  hasRoom s p || (s.queues.get p).notices.any (isOpenFor h)

theorem takeOccurrence_line (p : Port) (h : Handle) (tag : Half) (r : Report) (s : State) :
    LineWork p (takesOccurrence s p h) s (takeOccurrence p h tag r s) := by
  unfold takesOccurrence
  cases opened : (s.queues.get p).notices.any (isOpenFor h) with
  | true =>
    obtain ⟨n, hn, open_n⟩ := List.any_eq_true.mp opened
    rw [Bool.or_true, takeOccurrence, opened]
    refine replaceQueue_line s ⟨_, List.mem_map_of_mem hn, ?_⟩
    simp only [open_n, if_true]
    simp only [isOpenFor, Bool.and_eq_true, Bool.not_eq_true'] at open_n
    exact open_n.1.2
  | false =>
    rw [Bool.or_false, takeOccurrence, opened, if_neg Bool.false_ne_true]
    cases room : hasRoom s p with
    | true => exact appendNotice_line p h tag r s
    | false =>
      rw [if_neg Bool.false_ne_true]
      exact updateParts_line p h _ s

theorem takeTerminal_line (p : Port) (h : Handle) (tag : Half) (r : Report) (s : State) :
    LineWork p (hasRoom s p) s (takeTerminal p h tag r s) := by
  rw [takeTerminal]
  cases room : hasRoom s p with
  | true => exact appendNotice_line p h tag r s
  | false =>
    rw [if_neg Bool.false_ne_true]
    exact updateParts_line p h _ s

/-- An occurrence that no queue takes leaves the queues. -/
theorem takeOccurrence_queues_of_full {p : Port} {h : Handle} {s : State} (tag : Half) (r : Report)
    (full : takesOccurrence s p h = false) : (takeOccurrence p h tag r s).queues = s.queues := by
  obtain ⟨room, opened⟩ := Bool.or_eq_false_iff.mp full
  simp [takeOccurrence, opened, room]

/-- A taken occurrence is a reference of its entry: a notice or the pending summary (R48, R92). -/
theorem hasReference_occurrenceTaken {t : State} {h : Handle} {e : Entry} {tag : Half} {r : Report} {q : NoticeQueue}
    {summary : Option Report} (queue : t.queues.get e.owner = (occurrenceTaken h tag r q summary).1)
    (kept : e.summary = (occurrenceTaken h tag r q summary).2) : hasReference t h e = true := by
  by_contra alone
  obtain ⟨no_notice, no_summary, -⟩ := (hasReference_eq_false_iff t h e).mp (by simpa using alone)
  rw [queue] at no_notice
  rw [kept] at no_summary
  unfold occurrenceTaken at no_notice no_summary
  split_ifs at no_notice no_summary with opened room
  · obtain ⟨n, hn, open_n⟩ := opened
    refine no_notice _ (List.mem_map_of_mem hn) ?_
    rw [if_pos open_n]
    exact open_n.1
  · exact no_notice ⟨q.nextSeq, h, tag, r, false⟩ (by simp) rfl

/-- A taken terminal report is a reference of its entry: a notice or the terminal pending (R48, R93). -/
theorem hasReference_terminalTaken {t : State} {h : Handle} {e : Entry} {tag : Half} {r : Report} {q : NoticeQueue}
    {terminal : Option Report} (queue : t.queues.get e.owner = (terminalTaken h tag r q terminal).1)
    (kept : e.terminal = (terminalTaken h tag r q terminal).2) : hasReference t h e = true := by
  by_contra alone
  obtain ⟨no_notice, -, no_terminal⟩ := (hasReference_eq_false_iff t h e).mp (by simpa using alone)
  rw [queue] at no_notice
  rw [kept] at no_terminal
  unfold terminalTaken at no_notice no_terminal
  split_ifs at no_notice no_terminal with room
  exact no_notice ⟨q.nextSeq, h, tag, r, false⟩ (by simp) rfl

/-! ### What stays but for one slot and one queue -/

/-- Work on the entry in one slot and on its owner's queue: what became of the slot and of the queue, and that nothing else
was reached but the agenda and, where the queue took a report, the owner's attention line. -/
structure EntryWork (p : Port) (h : Handle) (reported : Bool) (q : NoticeQueue) (x : Option Entry) (s t : State) : Prop where
  line : LineWork p reported s t
  queues : t.queues = s.queues.set p q
  strobes : t.strobes = s.strobes
  others : ∀ g, g ≠ h → slot t g = slot s g
  here : slot t h = x

section EntryWork
variable {p : Port} {h : Handle} {b : Bool} {q : NoticeQueue} {x : Option Entry} {s t u : State}

theorem EntryWork.queue (k : EntryWork p h b q x s t) : t.queues.get p = q := by rw [k.queues, PerPort.get_set_self]

theorem EntryWork.trans {c : Bool} {r : NoticeQueue} {y : Option Entry} (k : EntryWork p h b q x s t)
    (l : EntryWork p h c r y t u) : EntryWork p h (b || c) r y s u where
  line := k.line.trans l.line
  queues := by rw [l.queues, k.queues, PerPort.set_set]
  strobes := l.strobes.trans k.strobes
  others := fun g ne => (l.others g ne).trans (k.others g ne)
  here := l.here

theorem EntryWork.refl (p : Port) (h : Handle) (s : State) : EntryWork p h false (s.queues.get p) (slot s h) s s :=
  ⟨.refl p s, (PerPort.set_get _ _).symm, rfl, fun _ _ => rfl, rfl⟩

theorem entryWork_putSlot (p : Port) (h : Handle) (x : Option Entry) (s : State) :
    EntryWork p h false (s.queues.get p) x s (putSlot h x s) :=
  ⟨.of_idle (putSlot_work _ _ _) (by simp) (by simp), by simp, by simp, fun g ne => by simp [ne], by simp⟩

theorem entryWork_setStatus {e : Entry} (p : Port) (at_h : slot s h = some e) (st : EntryStatus) :
    EntryWork p h false (s.queues.get p) (some { e with status := st }) s (setStatus h st s) := by
  rw [setStatus_of_slot at_h]
  exact entryWork_putSlot p h _ s

theorem entryWork_updateParts {e : Entry} (p : Port) (at_h : slot s h = some e) (f : EntryParts → EntryParts) :
    EntryWork p h false (s.queues.get p) (some (e.withParts (f e.parts))) s (updateParts h f s) :=
  ⟨updateParts_line p h f s, by simp, by simp, fun g ne => by simp [ne], by simp [at_h]⟩

theorem entryWork_takeOccurrence {e : Entry} (at_h : slot s h = some e) (tag : Half) (r : Report) :
    EntryWork p h (takesOccurrence s p h) (occurrenceTaken h tag r (s.queues.get p) e.summary).1
      (some { e with summary := (occurrenceTaken h tag r (s.queues.get p) e.summary).2 }) s
      (takeOccurrence p h tag r s) := by
  obtain ⟨strobes, -, -, others, -⟩ := takeOccurrence_frame p h tag r s
  obtain ⟨queues, here⟩ := takeOccurrence_taken (p := p) (tag := tag) (r := r) at_h
  exact ⟨takeOccurrence_line p h tag r s, queues, strobes, others, here⟩

theorem entryWork_takeTerminal {e : Entry} (at_h : slot s h = some e) (tag : Half) (r : Report) :
    EntryWork p h (hasRoom s p) (terminalTaken h tag r (s.queues.get p) e.terminal).1
      (some { e with terminal := (terminalTaken h tag r (s.queues.get p) e.terminal).2 }) s
      (takeTerminal p h tag r s) := by
  obtain ⟨strobes, -, -, others, -⟩ := takeTerminal_frame p h tag r s
  obtain ⟨queues, here⟩ := takeTerminal_taken (p := p) (tag := tag) (r := r) at_h
  exact ⟨takeTerminal_line p h tag r s, queues, strobes, others, here⟩

/-- R48 at one entry: it keeps its slot, or is freed because it is ENDED without a reference. -/
theorem entryWork_releaseIfDone {e : Entry} (p : Port) (at_h : slot s h = some e) :
    ∃ x, EntryWork p h false (s.queues.get p) x s (releaseIfDone h s) ∧
      (isEnded e = true → hasReference s h e = false → x = none) := by
  by_cases done : isEnded e = true ∧ hasReference s h e = false
  · refine ⟨none, ?_, fun _ _ => rfl⟩
    rw [releaseIfDone_of_done at_h done.1 done.2]
    exact entryWork_putSlot p h none s
  · refine ⟨slot s h, ?_, fun ended alone => absurd ⟨ended, alone⟩ done⟩
    rw [releaseIfDone_of_kept at_h (by simpa [imp_iff_not_or] using done)]
    exact .refl p h s

end EntryWork

/-! ### Exhaustion (R66) -/

section Exhaust
variable {h : Handle} {e : Entry} {v : Time} {s : State}

/-- The terminal report of an entry that is exhausted at `v` (R66). -/
def exhaustReport (e : Entry) (v : Time) (s : State) : Report :=
  terminalReport .exhausted e.missed v ⟨holdoverMark s, false, e.missed == 0xFFFF⟩

/-- An entry with notify YES ends EXHAUSTED with its terminal report, and keeps its slot by it (R66). -/
theorem exhaust_reported (at_h : slot s h = some e) (notify : e.notify = true) {q : NoticeQueue} {terminal : Option Report}
    (taken : terminalTaken h e.tag (exhaustReport e v s) (s.queues.get e.owner) e.terminal = (q, terminal)) :
    EntryWork e.owner h (hasRoom s e.owner) q
      (some { e with status := .ended .exhausted, missed := 0, terminal := terminal }) s (exhaust h v s) := by
  have ended := entryWork_setStatus e.owner at_h (.ended .exhausted)
  have reported := entryWork_takeTerminal (p := e.owner) ended.here e.tag (exhaustReport e v s)
  simp only [ended.queue, taken] at reported
  have cleared := entryWork_updateParts e.owner reported.here (fun x => { x with missed := 0 })
  rw [reported.queue] at cleared
  have all := (ended.trans reported).trans cleared
  have room : hasRoom (setStatus h (.ended .exhausted) s) e.owner = hasRoom s e.owner := by simp [hasRoom]
  simp only [Bool.false_or, Bool.or_false, room] at all
  have kept := releaseIfDone_of_kept all.here (.inr (hasReference_terminalTaken (tag := e.tag) (r := exhaustReport e v s)
    (q := s.queues.get e.owner) (terminal := e.terminal)
    (by rw [taken]; exact all.queue) (by rw [taken]; rfl)))
  have unfolded : exhaust h v s = releaseIfDone h
      (updateParts h (fun x => { x with missed := 0 })
        (takeTerminal e.owner h e.tag (exhaustReport e v s) (setStatus h (.ended .exhausted) s))) := by
    simp [exhaust, at_h, notify, endEntry, exhaustReport]
  rw [unfolded, kept]
  exact all

/-- An entry with notify NO is exhausted without a report; without a reference it is freed (R49, R66). -/
theorem exhaust_silent (at_h : slot s h = some e) (silent : e.notify = false) :
    ∃ x, EntryWork e.owner h false (s.queues.get e.owner) x s (exhaust h v s) ∧ (hasReference s h e = false → x = none) := by
  have ended := entryWork_setStatus e.owner at_h (.ended .exhausted)
  have cleared := entryWork_updateParts e.owner ended.here (fun x => { x with missed := 0 })
  rw [ended.queue] at cleared
  have both := ended.trans cleared
  obtain ⟨x, released, freed⟩ := entryWork_releaseIfDone e.owner both.here
  have unfolded : exhaust h v s = releaseIfDone h
      (updateParts h (fun x => { x with missed := 0 }) (setStatus h (.ended .exhausted) s)) := by
    simp [exhaust, at_h, silent, endEntry]
  rw [both.queue] at released
  rw [unfolded]
  exact ⟨x, both.trans released, fun alone =>
    freed rfl ((hasReference_of_parts (s := s) (e := e) (by simp) rfl rfl rfl).trans alone)⟩

end Exhaust

/-! ### The advance of a firing (R63 to R66) -/

section Advance
variable {h : Handle} {e : Entry} {due ref v : Time} {s : State}

/-- A firing ends a ONE_SHOT entry FIRED; the others take their later due, if they have one (R63 to R65). -/
theorem firedStatus_eq (e : Entry) (due ref : Time) :
    firedStatus e due ref =
      if e.schedule.kind = .oneShot then some (.ended .fired) else (laterDue e.schedule due ref).map .armed := by
  unfold firedStatus
  cases e.schedule <;> simp [Schedule.kind, laterDue, timeInRange, pointsThrough] <;> split_ifs with later <;> simp [later]

theorem advance_oneShot (kind : e.schedule.kind = .oneShot) :
    advance h e.schedule due ref v s = releaseIfDone h (setStatus h (.ended .fired) s) := by
  cases schedule : e.schedule <;> simp [schedule, Schedule.kind] at kind <;> rfl

theorem advance_recurring (kind : e.schedule.kind ≠ .oneShot) :
    advance h e.schedule due ref v s = moveOn h e.schedule due ref v s := by
  cases schedule : e.schedule <;> simp [schedule, Schedule.kind] at kind <;> rfl

/-- An entry that a firing does not exhaust takes its new status, and keeps its slot if it is armed or has a reference. -/
theorem advance_of_status (at_h : slot s h = some e) {st : EntryStatus} (status : firedStatus e due ref = some st)
    (kept : (∃ d, st = .armed d) ∨ hasReference s h e = true) :
    advance h e.schedule due ref v s = setStatus h st s := by
  rw [firedStatus_eq] at status
  split_ifs at status with kind
  · obtain rfl : st = .ended .fired := (Option.some.inj status).symm
    have reference : hasReference s h e = true := by simpa using kept
    rw [advance_oneShot kind]
    exact releaseIfDone_of_kept (entryWork_setStatus e.owner at_h _).here
      (.inr ((hasReference_of_parts (s := s) (e := e) (by simp) rfl rfl rfl).trans reference))
  · obtain ⟨d, later, rfl⟩ := Option.map_eq_some_iff.mp status
    rw [advance_recurring kind, moveOn, later]

theorem advance_of_ended {cause : EndCause} (status : firedStatus e due ref = some (.ended cause)) :
    advance h e.schedule due ref v s = releaseIfDone h (setStatus h (.ended cause) s) := by
  rw [firedStatus_eq] at status
  split_ifs at status with kind
  · obtain rfl : EndCause.fired = cause := by simpa using status
    exact advance_oneShot kind
  · simp at status

theorem advance_of_exhausted (status : firedStatus e due ref = none) :
    advance h e.schedule due ref v s = exhaust h v s := by
  rw [firedStatus_eq] at status
  split_ifs at status with kind
  rw [advance_recurring kind, moveOn, Option.map_eq_none_iff.mp status]

end Advance

/-! ### A firing (R61) -/

section Fire
variable {h : Handle} {e : Entry} {due : Time} (v ref : Time) (late : Bool) {s : State}

/-- The occurrence of a firing in the terms of Safety.lean (R62). -/
theorem occurrence_eq (e : Entry) (due ref v : Time) (late suppressed holdover : Bool) :
    occurrence e due ref v late suppressed holdover = firingOccurrence e due ref v late suppressed holdover := by
  unfold occurrence firingOccurrence passedOver
  cases e.schedule <;> simp [pointsThrough]

/-- A firing but for its advance: the pulse request, the occurrence, and the accumulator that becomes 0 (R61, R62). -/
def handedOver (h : Handle) (e : Entry) (due v ref : Time) (late : Bool) (s : State) : State :=
  let r := requestPulse e.strobe e.owner s
  updateParts h (fun x => { x with missed := 0 })
    (if e.notify then takeOccurrence e.owner h e.tag (firingOccurrence e due ref v late r.2 (!inMain s)) r.1 else r.1)

theorem fireEntry_eq (at_h : slot s h = some e) (armed : e.status = .armed due) :
    fireEntry h v ref late s = advance h e.schedule due ref v (handedOver h e due v ref late s) := by
  simp [fireEntry, at_h, armed, handedOver, occurrence_eq, holdoverMark, inMain]

theorem requestPulse_line (p : Port) (a : Option StrobeAction) (o : Port) (s : State) :
    LineWork p false s (requestPulse a o s).1 :=
  .of_idle (requestPulse_work _ _ _) (by simp) (by simp)

theorem requestPulse_reads (a : Option StrobeAction) (o p : Port) (s : State) (h : Handle) :
    (requestPulse a o s).1.queues.get p = s.queues.get p ∧
      takesOccurrence (requestPulse a o s).1 p h = takesOccurrence s p h := by
  simp [takesOccurrence, hasRoom]

/-- The occurrence of an entry with notify YES as the owner's queue and the pending summary take it. -/
theorem handedOver_reported (at_h : slot s h = some e) (notify : e.notify = true) {q : NoticeQueue}
    {summary : Option Report}
    (taken : occurrenceTaken h e.tag (firingOccurrence e due ref v late (requestPulse e.strobe e.owner s).2 (!inMain s))
      (s.queues.get e.owner) e.summary = (q, summary)) :
    EntryWork e.owner h (takesOccurrence s e.owner h) q (some { e with missed := 0, summary := summary })
      (requestPulse e.strobe e.owner s).1 (handedOver h e due v ref late s) := by
  have at_h' : slot (requestPulse e.strobe e.owner s).1 h = some e := by simpa using at_h
  obtain ⟨queue, takes⟩ := requestPulse_reads e.strobe e.owner e.owner s h
  have occurred := entryWork_takeOccurrence (p := e.owner) at_h' e.tag
    (firingOccurrence e due ref v late (requestPulse e.strobe e.owner s).2 (!inMain s))
  rw [queue, taken, takes] at occurred
  have cleared := entryWork_updateParts e.owner occurred.here (fun x => { x with missed := 0 })
  rw [occurred.queue] at cleared
  have both := occurred.trans cleared
  have unfolded : handedOver h e due v ref late s = updateParts h (fun x => { x with missed := 0 })
      (takeOccurrence e.owner h e.tag
        (firingOccurrence e due ref v late (requestPulse e.strobe e.owner s).2 (!inMain s))
        (requestPulse e.strobe e.owner s).1) := by
    rw [handedOver, if_pos notify]
  rw [Bool.or_false] at both
  rw [unfolded]
  exact both

/-- An entry with notify NO hands nothing to the NTU. -/
theorem handedOver_silent (at_h : slot s h = some e) (silent : e.notify = false) :
    EntryWork e.owner h false (s.queues.get e.owner) (some { e with missed := 0 })
      (requestPulse e.strobe e.owner s).1 (handedOver h e due v ref late s) := by
  have at_h' : slot (requestPulse e.strobe e.owner s).1 h = some e := by simpa using at_h
  have cleared := entryWork_updateParts e.owner at_h' (fun x => { x with missed := 0 })
  rw [(requestPulse_reads e.strobe e.owner e.owner s h).1] at cleared
  have unfolded : handedOver h e due v ref late s =
      updateParts h (fun x => { x with missed := 0 }) (requestPulse e.strobe e.owner s).1 := by
    simp [handedOver, silent]
  rw [unfolded]
  exact cleared

/-- The reference of an entry that has just reported its occurrence. -/
theorem handedOver_reference (at_h : slot s h = some e) (notify : e.notify = true) {q : NoticeQueue}
    {summary : Option Report}
    (taken : occurrenceTaken h e.tag (firingOccurrence e due ref v late (requestPulse e.strobe e.owner s).2 (!inMain s))
      (s.queues.get e.owner) e.summary = (q, summary)) :
    hasReference (handedOver h e due v ref late s) h { e with missed := 0, summary := summary } = true :=
  hasReference_occurrenceTaken (tag := e.tag)
    (r := firingOccurrence e due ref v late (requestPulse e.strobe e.owner s).2 (!inMain s))
    (q := s.queues.get e.owner) (summary := e.summary)
    (by rw [taken]; exact (handedOver_reported v ref late at_h notify taken).queue) (by rw [taken])

/-- A firing of an entry with notify YES that does not exhaust it (R63 to R65, R92). -/
theorem fireEntry_reported (at_h : slot s h = some e) (armed : e.status = .armed due) (notify : e.notify = true)
    {q : NoticeQueue} {summary : Option Report}
    (taken : occurrenceTaken h e.tag (firingOccurrence e due ref v late (requestPulse e.strobe e.owner s).2 (!inMain s))
      (s.queues.get e.owner) e.summary = (q, summary))
    {st : EntryStatus} (status : firedStatus e due ref = some st) :
    EntryWork e.owner h (takesOccurrence s e.owner h) q
      (some { e with status := st, missed := 0, summary := summary })
      (requestPulse e.strobe e.owner s).1 (fireEntry h v ref late s) := by
  have handed := handedOver_reported v ref late at_h notify taken
  rw [fireEntry_eq v ref late at_h armed,
    advance_of_status (e := { e with missed := 0, summary := summary }) handed.here status
      (.inr (handedOver_reference v ref late at_h notify taken))]
  have moved := entryWork_setStatus e.owner handed.here st
  rw [handed.queue] at moved
  simpa using handed.trans moved

/-- A firing that exhausts an entry with notify YES: the terminal report follows the occurrence (R66, R92, R93). -/
theorem fireEntry_exhausted (at_h : slot s h = some e) (armed : e.status = .armed due) (notify : e.notify = true)
    {q q' : NoticeQueue} {summary terminal : Option Report}
    (taken : occurrenceTaken h e.tag (firingOccurrence e due ref v late (requestPulse e.strobe e.owner s).2 (!inMain s))
      (s.queues.get e.owner) e.summary = (q, summary))
    (status : firedStatus e due ref = none)
    (ended : terminalTaken h e.tag ⟨.exhausted, 0, 0, 0, v, v, ⟨!inMain s, false, false⟩⟩ q e.terminal = (q', terminal)) :
    EntryWork e.owner h (takesOccurrence s e.owner h) q'
      (some { e with status := .ended .exhausted, missed := 0, summary := summary, terminal := terminal })
      (requestPulse e.strobe e.owner s).1 (fireEntry h v ref late s) := by
  have handed := handedOver_reported v ref late at_h notify taken
  have report : exhaustReport { e with missed := 0, summary := summary } v (handedOver h e due v ref late s) =
      ⟨.exhausted, 0, 0, 0, v, v, ⟨!inMain s, false, false⟩⟩ := by
    have spm := handed.line.work.tbu_spm.2
    simp [exhaustReport, terminalReport, holdoverMark, inMain, spm]
  rw [fireEntry_eq v ref late at_h armed,
    advance_of_exhausted (e := { e with missed := 0, summary := summary }) status]
  have gone := exhaust_reported (v := v) (q := q') (terminal := terminal) handed.here notify
    (by rw [report]; simpa [handed.queue] using ended)
  have all := handed.trans gone
  have flag : (takesOccurrence s e.owner h || hasRoom (handedOver h e due v ref late s) e.owner) =
      takesOccurrence s e.owner h := by
    cases takes : takesOccurrence s e.owner h with
    | true => rfl
    | false =>
      have same := takeOccurrence_queues_of_full e.tag
        (firingOccurrence e due ref v late (requestPulse e.strobe e.owner s).2 (!inMain s))
        ((requestPulse_reads e.strobe e.owner e.owner s h).2.trans takes)
      have room : hasRoom s e.owner = false := (Bool.or_eq_false_iff.mp takes).1
      simpa [handedOver, notify, hasRoom, same] using room
  rw [flag] at all
  exact all

/-- A firing of an entry with notify NO and no reference leaves it armed at its next due, or frees it (R49, R63). -/
theorem fireEntry_silent (at_h : slot s h = some e) (armed : e.status = .armed due) (silent : e.notify = false) :
    ∃ x, EntryWork e.owner h false (s.queues.get e.owner) x (requestPulse e.strobe e.owner s).1 (fireEntry h v ref late s) ∧
      (hasReference s h e = false →
        x = match firedStatus e due ref with
          | some (.armed d) => some { e with status := .armed d, missed := 0 }
          | _ => none) := by
  have handed := handedOver_silent v ref late at_h silent (due := due)
  have alone_after : hasReference s h e = false →
      hasReference (handedOver h e due v ref late s) h { e with missed := 0 } = false := fun alone =>
    (hasReference_of_parts (s := s) (e := e) (by rw [handed.queues]; simp) rfl rfl rfl).trans alone
  rw [fireEntry_eq v ref late at_h armed]
  cases status : firedStatus e due ref with
  | none =>
    obtain ⟨x, gone, freed⟩ := exhaust_silent (v := v) handed.here silent
    rw [advance_of_exhausted (e := { e with missed := 0 }) status]
    rw [handed.queue] at gone
    exact ⟨x, handed.trans gone, fun alone => freed (alone_after alone)⟩
  | some st =>
    have moved := entryWork_setStatus e.owner handed.here st
    have both := handed.trans moved
    rw [handed.queue] at both
    cases st with
    | armed d =>
      rw [advance_of_status (e := { e with missed := 0 }) handed.here status (.inl ⟨d, rfl⟩)]
      exact ⟨_, both, fun _ => rfl⟩
    | ended cause =>
      obtain ⟨x, released, freed⟩ := entryWork_releaseIfDone e.owner both.here
      rw [both.queue] at released
      rw [advance_of_ended (e := { e with missed := 0 }) status]
      exact ⟨x, both.trans released, fun alone => freed rfl
        ((hasReference_of_parts (s := handedOver h e due v ref late s) (e := { e with missed := 0 }) (by simp) rfl rfl
          rfl).trans (alone_after alone))⟩

/-- A firing is work on its entry and on the queue of its owner, after its pulse request (R49, R61). -/
theorem entryWork_fireEntry (at_h : slot s h = some e) (armed : e.status = .armed due) :
    ∃ b q x, EntryWork e.owner h b q x (requestPulse e.strobe e.owner s).1 (fireEntry h v ref late s) ∧
      (b = true ↔ e.notify = true ∧ takesOccurrence s e.owner h = true) := by
  cases notify : e.notify with
  | false =>
    obtain ⟨x, work, -⟩ := fireEntry_silent v ref late at_h armed notify
    exact ⟨_, _, x, work, by simp⟩
  | true =>
    cases status : firedStatus e due ref with
    | some st => exact ⟨_, _, _, fireEntry_reported v ref late at_h armed notify rfl status, by simp⟩
    | none => exact ⟨_, _, _, fireEntry_exhausted v ref late at_h armed notify rfl status rfl, by simp⟩

end Fire

/-! ### Combined counts (R91) -/

theorem cappedSum_toNat (x y : Half) : (cappedSum x y).toNat = min (x.toNat + y.toNat) 65535 := by
  rw [cappedSum, BitVec.toNat_ofNat, Nat.mod_eq_of_lt]
  omega

theorem sumExceeds_iff (x y : Half) : sumExceeds x y = true ↔ 65535 < x.toNat + y.toNat := by simp [sumExceeds]

end Sys2Proof.Machine

open Sys2Proof Sys2Proof.Machine

/-- Settles O28: the firing is assembled from its occurrence (`handedOver_reported`), its advance and its end. -/
theorem firingReportsAndAdvances : Obligations.FiringReportsAndAdvances := by
  unfold Obligations.FiringReportsAndAdvances
  refine ⟨fun s h e due v ref late at_h armed _ _ => ⟨_, rfl, ?_⟩, fun x y => ?_⟩
  · obtain ⟨b, q, x, work, reports⟩ := entryWork_fireEntry v ref late at_h armed
    have line := (requestPulse_line e.owner e.strobe e.owner s).trans work.line
    rw [Bool.false_or] at line
    obtain ⟨tbu, lease, pru, ports, spm, draws, pending, state, held, setup⟩ := line.work
    have quiet : b = false → (fireEntry h v ref late s).attn = s.attn := fun idle => (line.idle idle).1
    refine ⟨tbu, lease, pru, ports, spm, draws, pending, state, held, work.strobes,
      fun g ne => (work.others g ne).trans (by simp), line.others, setup e.owner, fun silent => ?_, fun notify => ?_,
      fun notify q' summary taken => ⟨fun st status => ?_, fun status q'' terminal ended => ?_⟩⟩
    · obtain ⟨y, left, freed⟩ := fireEntry_silent v ref late at_h armed silent
      refine ⟨left.queues.trans (by simp), quiet (by simpa [silent] using reports), fun alone => ?_⟩
      exact left.here.trans (freed alone)
    · have takes : b = takesOccurrence s e.owner h := Bool.eq_iff_iff.mpr (by simpa [notify] using reports)
      refine ⟨fun room => (line.answers (takes.trans ?_)).2, fun full shut => quiet (takes.trans ?_)⟩
      · simpa [takesOccurrence] using room
      · simp [takesOccurrence, full, shut]
    · have reported := fireEntry_reported v ref late at_h armed notify taken status
      exact ⟨reported.queues.trans (by simp), reported.here⟩
    · have exhausted := fireEntry_exhausted v ref late at_h armed notify taken status ended
      exact ⟨exhausted.queues.trans (by simp), exhausted.here⟩
  · have saturated : (combine x y).marks.saturated = true ↔
        x.marks.saturated = true ∨ y.marks.saturated = true ∨ 65535 < x.fires.toNat + y.fires.toNat ∨
          65535 < x.late.toNat + y.late.toNat ∨ 65535 < x.missed.toNat + y.missed.toNat := by
      simp [combine, sumExceeds_iff, or_assoc]
    exact ⟨rfl, rfl, rfl, cappedSum_toNat _ _, cappedSum_toNat _ _, cappedSum_toNat _ _, rfl, rfl, saturated⟩

end

section
/-! PROOFS. The visit of one slot by the realign walk (R70 to R74), and the count of a firing (R92, R95). -/

-- One proof after the other: the memory limit of the check bounds the threads of Lean.
set_option Elab.async false

namespace Sys2Proof.Machine

/-! ### A skip of a ONE_SHOT entry (R73) -/

section SkipOneShot
variable {h : Handle} {e : Entry} {v : Time} {s : State}

/-- A skipped ONE_SHOT entry with notify YES keeps its slot by its terminal report (R73). -/
theorem skipOneShot_reported (at_h : slot s h = some e) (notify : e.notify = true) {q : NoticeQueue}
    {terminal : Option Report}
    (taken : terminalTaken h e.tag ⟨.skipped, 0, 0, 1, v, v, ⟨!inMain s, false, false⟩⟩ (s.queues.get e.owner) e.terminal =
      (q, terminal)) :
    EntryWork e.owner h (hasRoom s e.owner) q (some { e with status := .ended .skipped, terminal := terminal }) s
      (skipOneShot h v s) := by
  have ended := entryWork_setStatus e.owner at_h (.ended .skipped)
  have reported := entryWork_takeTerminal (p := e.owner) ended.here e.tag
    ⟨.skipped, 0, 0, 1, v, v, ⟨!inMain s, false, false⟩⟩
  simp only [ended.queue, taken] at reported
  have all := ended.trans reported
  have room : hasRoom (setStatus h (.ended .skipped) s) e.owner = hasRoom s e.owner := by simp [hasRoom]
  rw [Bool.false_or, room] at all
  have kept := releaseIfDone_of_kept all.here (.inr (hasReference_terminalTaken (tag := e.tag)
    (r := ⟨.skipped, 0, 0, 1, v, v, ⟨!inMain s, false, false⟩⟩) (q := s.queues.get e.owner) (terminal := e.terminal)
    (by rw [taken]; exact all.queue) (by rw [taken])))
  have unfolded : skipOneShot h v s = releaseIfDone h
      (takeTerminal e.owner h e.tag ⟨.skipped, 0, 0, 1, v, v, ⟨!inMain s, false, false⟩⟩
        (setStatus h (.ended .skipped) s)) := by
    simp [skipOneShot, at_h, notify, endEntry, terminalReport, holdoverMark, inMain]
  rw [unfolded, kept]
  exact all

/-- A skipped ONE_SHOT entry with notify NO reports nothing; without a reference it is freed (R49, R73). -/
theorem skipOneShot_silent (at_h : slot s h = some e) (silent : e.notify = false) :
    ∃ x, EntryWork e.owner h false (s.queues.get e.owner) x s (skipOneShot h v s) ∧
      (hasReference s h e = false → x = none) := by
  have ended := entryWork_setStatus e.owner at_h (.ended .skipped)
  obtain ⟨x, released, freed⟩ := entryWork_releaseIfDone e.owner ended.here
  have unfolded : skipOneShot h v s = releaseIfDone h (setStatus h (.ended .skipped) s) := by
    simp [skipOneShot, at_h, silent, endEntry]
  rw [ended.queue] at released
  rw [unfolded]
  exact ⟨x, ended.trans released, fun alone =>
    freed rfl ((hasReference_of_parts (s := s) (e := e) (by simp) rfl rfl rfl).trans alone)⟩

end SkipOneShot

/-! ### A skip of a PERIODIC or CALENDAR entry (R71) -/

section SkipOver
variable {h : Handle} {e : Entry} {k : Nat} {due new : Time} {s : State}

/-- The entry after `k` was added to its missed accumulator. -/
def Entry.missedMore (e : Entry) (k : Nat) : Entry := { e with missed := addMissed k e.missed }

/-- A skip adds to the accumulator before the entry moves on. -/
def addedMissed (h : Handle) (k : Nat) (s : State) : State :=
  updateParts h (fun x => { x with missed := addMissed k x.missed }) s

theorem entryWork_addedMissed (at_h : slot s h = some e) :
    EntryWork e.owner h false (s.queues.get e.owner) (some (e.missedMore k)) s (addedMissed h k s) :=
  entryWork_updateParts e.owner at_h (fun x => { x with missed := addMissed k x.missed })

theorem skipOver_eq (sch : Schedule) :
    skipOver h sch k due new s =
      match laterDue sch due new with
      | some d => setStatus h (.armed d) (addedMissed h k s)
      | none => exhaust h s.tbu.timeline (addedMissed h k s) := rfl

theorem skipOver_later (at_h : slot s h = some e) {sch : Schedule} {d : Time} (later : laterDue sch due new = some d) :
    EntryWork e.owner h false (s.queues.get e.owner) (some { e.missedMore k with status := .armed d }) s
      (skipOver h sch k due new s) := by
  have added := entryWork_addedMissed (k := k) at_h
  have both := added.trans (entryWork_setStatus e.owner added.here (.armed d))
  rw [added.queue] at both
  rw [skipOver_eq, later]
  exact both

theorem skipOver_reported (at_h : slot s h = some e) (notify : e.notify = true) {sch : Schedule}
    (gone : laterDue sch due new = none) {q : NoticeQueue} {terminal : Option Report}
    (taken : terminalTaken h e.tag (exhaustReport (e.missedMore k) s.tbu.timeline s) (s.queues.get e.owner) e.terminal =
      (q, terminal)) :
    EntryWork e.owner h (hasRoom s e.owner) q
      (some { e with status := .ended .exhausted, missed := 0, terminal := terminal }) s (skipOver h sch k due new s) := by
  have added := entryWork_addedMissed (k := k) at_h
  have room : hasRoom (addedMissed h k s) e.owner = hasRoom s e.owner := by simp [hasRoom, added.queue]
  have mark : exhaustReport (e.missedMore k) s.tbu.timeline (addedMissed h k s) =
      exhaustReport (e.missedMore k) s.tbu.timeline s := by
    simp [exhaustReport, holdoverMark, inMain, added.line.work.tbu_spm.2]
  have ended := exhaust_reported (v := s.tbu.timeline) added.here notify (q := q) (terminal := terminal)
    (by rw [mark]; exact (congrArg (terminalTaken h e.tag _ · e.terminal) added.queue).trans taken)
  have both := added.trans ended
  rw [skipOver_eq, gone]
  rw [Bool.false_or, show (e.missedMore k).owner = e.owner from rfl, room] at both
  exact both

theorem skipOver_silent (at_h : slot s h = some e) (silent : e.notify = false) {sch : Schedule}
    (gone : laterDue sch due new = none) :
    ∃ x, EntryWork e.owner h false (s.queues.get e.owner) x s (skipOver h sch k due new s) ∧
      (hasReference s h e = false → x = none) := by
  have added := entryWork_addedMissed (k := k) at_h
  obtain ⟨x, ended, freed⟩ := exhaust_silent (v := s.tbu.timeline) added.here silent
  have both := added.trans ended
  rw [show (addedMissed h k s).queues.get (e.missedMore k).owner = s.queues.get e.owner from added.queue] at both
  rw [skipOver_eq, gone]
  exact ⟨x, both, fun alone => freed ((hasReference_of_parts (by simp [addedMissed]) rfl rfl rfl).trans alone)⟩

end SkipOver

theorem hasRoom_iff_lt (s : State) (p : Port) : hasRoom s p = true ↔ (s.queues.get p).notices.length < 16 :=
  decide_eq_true_iff

/-! ### The visit of one slot (R70) -/

section Visit
variable {w : Walk} {h : Handle} {e : Entry} {due : Time} {s : State}

theorem visitSlot_of_idle (idle : ∀ e due, slot s h = some e → e.status ≠ .armed due) : visitSlot w h s = (s, 0) := by
  unfold visitSlot
  cases at_h : slot s h with
  | none => rfl
  | some e =>
    cases armed : e.status with
    | armed due => exact absurd armed (idle e due at_h)
    | ended cause => simp [armed]

theorem visitSlot_of_armed (at_h : slot s h = some e) (armed : e.status = .armed due) :
    visitSlot w h s = if w.delta < 0 then (visitBackward w h e due s, 0) else visitForward w h e due s := by
  simp [visitSlot, at_h, armed]

/-- The shift of an ELAPSED due, capped at the last value, as the table gives it (R72). -/
theorem shiftedDue_eq (due : Time) (delta : Int) :
    shiftedDue due delta = timeOf (min lastTime.toNat ((due.toNat : Int) + delta).toNat) := by
  simp only [shiftedDue]
  split_ifs with capped
  · rw [Nat.min_eq_left (by omega)]
    simp [timeOf, lastTime]
  · rw [Nat.min_eq_right (by omega)]

theorem realignTo_work_at (at_h : slot s h = some e) (armed : e.status = .armed due) (x : Option Time) :
    EntryWork e.owner h false (s.queues.get e.owner) (some { e with status := .armed (x.getD due) }) s
      (realignTo h x s) := by
  cases x with
  | none =>
    have stays := EntryWork.refl e.owner h s
    rw [at_h, show e = { e with status := .armed due } by rw [← armed]] at stays
    exact stays
  | some d => exact entryWork_setStatus e.owner at_h (.armed d)

/-- No SKIP row treats a WALL entry with policy FIRE_LATE or that the step does not overtake (R71). -/
theorem policy_of_kept (kept : countsAsSkipped w e due = false) (wall : e.schedule.reference = .wall) :
    e.policy = .fireLate ∨ ¬ (0 < w.delta ∧ due ≤ w.newValue) := by
  cases policy : e.policy with
  | fireLate => exact .inl rfl
  | skip => exact .inr (by simpa [countsAsSkipped, wall, policy] using kept)

/-- An ARMED entry that no SKIP row treats stays armed, at the due that the tables give (R71, R72, R74). -/
theorem visitSlot_kept (at_h : slot s h = some e) (armed : e.status = .armed due)
    (kept : countsAsSkipped w e due = false) :
    ∃ x : Option Time, visitSlot w h s = (realignTo h x s, 0) ∧ realigned w e due = some (x.getD due, 0) := by
  rw [visitSlot_of_armed at_h armed]
  cases sch : e.schedule with
  | oneShotElapsed =>
    exact ⟨some (shiftedDue due w.delta), by split_ifs <;> simp [visitBackward, visitForward, sch, realignTo],
      by simp [realigned, sch, Schedule.reference, shiftedDue_eq]⟩
  | periodicElapsed per =>
    exact ⟨some (shiftedDue due w.delta), by split_ifs <;> simp [visitBackward, visitForward, sch, realignTo],
      by simp [realigned, sch, Schedule.reference, shiftedDue_eq]⟩
  | oneShotWall =>
    refine ⟨none, ?_, ?_⟩
    · cases policy : e.policy <;> simp_all [visitBackward, visitForward, realignTo, countsAsSkipped, Schedule.reference]
    · cases policy : e.policy <;> simp_all [realigned, countsAsSkipped, Schedule.reference]
  | periodicWall per anchor =>
    by_cases back : w.delta < 0
    · refine ⟨timeInRange (gridAfter anchor.toNat per.toNat w.newValue.toNat), by simp [visitBackward, sch, back], ?_⟩
      have ahead : ¬ 0 < w.delta := by omega
      simp only [realigned, sch, Schedule.reference, reduceCtorEq, if_false, ahead, false_and, back, if_true, timeInRange]
      split_ifs <;> rfl
    · rcases policy_of_kept kept (by simp [sch, Schedule.reference]) with late | ahead
      · exact ⟨none, by simp [visitForward, sch, late, realignTo, back],
          by simp [realigned, sch, Schedule.reference, late, back]⟩
      · refine ⟨none, ?_, by simp [realigned, sch, Schedule.reference, ahead, back]⟩
        cases policy : e.policy <;> simp [visitForward, sch, policy, realignTo, ← Bool.decide_and, ahead, back]
  | calendar pat =>
    by_cases overtaken : 0 < w.delta ∧ due ≤ w.newValue
    · have late : e.policy = .fireLate :=
        (policy_of_kept kept (by simp [sch, Schedule.reference])).resolve_right (not_not_intro overtaken)
      exact ⟨none, by simp [visitForward, sch, late, realignTo, overtaken, overtaken.1.le],
        by simp [realigned, sch, Schedule.reference, late, overtaken]⟩
    · have ahead : (decide (0 < w.delta) && decide (due ≤ w.newValue)) = false := by simpa using overtaken
      refine ⟨nextMatch pat w.newValue, ?_, by simp [realigned, sch, Schedule.reference, overtaken]⟩
      cases policy : e.policy <;> simp [visitBackward, visitForward, sch, policy, ahead]

/-- What makes a SKIP row treat an entry (R71). -/
theorem countsAsSkipped_iff :
    countsAsSkipped w e due = true ↔
      e.schedule.reference = .wall ∧ e.policy = .skip ∧ 0 < w.delta ∧ due ≤ w.newValue := by
  simp [countsAsSkipped, and_assoc]

/-- The accumulator's rise under a SKIP row of R71. -/
def skipCount (w : Walk) (e : Entry) (due : Time) : Nat :=
  match e.schedule with
  | .periodicWall per _ => pointsThrough due w.newValue per
  | _ => 1

/-- A ONE_SHOT entry under a SKIP row ends (R73). -/
theorem visitSlot_skipped_oneShot (at_h : slot s h = some e) (armed : e.status = .armed due)
    (skipped : countsAsSkipped w e due = true) (kind : e.schedule.kind = .oneShot) :
    visitSlot w h s = (skipOneShot h s.tbu.timeline s, 1) ∧ realigned w e due = none := by
  obtain ⟨wall, policy, ahead, overtaken⟩ := countsAsSkipped_iff.mp skipped
  rw [visitSlot_of_armed at_h armed, if_neg (by omega)]
  cases sch : e.schedule <;> simp [sch, Schedule.kind, Schedule.reference] at kind wall
  simp [visitForward, realigned, sch, Schedule.reference, policy, ahead, overtaken]

/-- A PERIODIC or CALENDAR entry under a SKIP row moves on against the new value, or is exhausted (R71, R73). -/
theorem visitSlot_skipped_recurring (at_h : slot s h = some e) (armed : e.status = .armed due)
    (skipped : countsAsSkipped w e due = true) (kind : e.schedule.kind ≠ .oneShot) :
    visitSlot w h s = (skipOver h e.schedule (skipCount w e due) due w.newValue s, 1) ∧
      realigned w e due = (laterDue e.schedule due w.newValue).map fun d => (d, skipCount w e due) := by
  obtain ⟨wall, policy, ahead, overtaken⟩ := countsAsSkipped_iff.mp skipped
  rw [visitSlot_of_armed at_h armed, if_neg (by omega)]
  cases sch : e.schedule <;> simp [sch, Schedule.kind, Schedule.reference] at kind wall
  case periodicWall per anchor =>
    refine ⟨by simp [visitForward, sch, policy, ahead, overtaken, skipCount], ?_⟩
    simp only [realigned, sch, Schedule.reference, policy, ahead, overtaken, laterDue, timeInRange, skipCount,
      pointsThrough, reduceCtorEq, if_false, and_self, if_true]
    split_ifs with later <;> simp [later]
  case calendar pat =>
    simp [visitForward, realigned, sch, Schedule.reference, policy, ahead, overtaken, skipCount, laterDue]

/-- The accumulator stops at 65535 as the visit's report says (R66, R71). -/
theorem addMissed_saturated (k : Nat) (m : Half) :
    (addMissed k m == 0xFFFF) = (min (m.toNat + k) 65535 == 65535) := by
  rw [Bool.eq_iff_iff, beq_iff_eq, beq_iff_eq, ← BitVec.toNat_inj, addMissed, BitVec.toNat_ofNat,
    Nat.mod_eq_of_lt (by omega)]
  rfl

theorem visitReport_oneShot (kind : e.schedule.kind = .oneShot) (v : Time) (holdover : Bool) :
    visitReport w e due v holdover = ⟨.skipped, 0, 0, 1, v, v, ⟨holdover, false, false⟩⟩ := by
  cases sch : e.schedule <;> simp [sch, Schedule.kind] at kind <;> simp [visitReport, sch]

theorem visitReport_recurring (kind : e.schedule.kind ≠ .oneShot) (wall : e.schedule.reference = .wall) (v : Time) :
    visitReport w e due v (!inMain s) = exhaustReport (e.missedMore (skipCount w e due)) v s := by
  have marked : exhaustReport (e.missedMore (skipCount w e due)) v s =
      terminalReport .exhausted (addMissed (skipCount w e due) e.missed) v
        ⟨!inMain s, false, min (e.missed.toNat + skipCount w e due) 65535 == 65535⟩ := by
    rw [exhaustReport, ← addMissed_saturated]
    rfl
  rw [marked]
  cases sch : e.schedule <;> simp [sch, Schedule.kind, Schedule.reference] at kind wall <;>
    simp only [visitReport, sch, skipCount] <;> rfl

/-- A visit that leaves an entry armed reaches nothing but its slot (R71, R72, R74). -/
theorem visitSlot_realigned (at_h : slot s h = some e) (armed : e.status = .armed due) {d : Time} {k : Nat}
    (stays : realigned w e due = some (d, k)) :
    EntryWork e.owner h false (s.queues.get e.owner) (some { e.missedMore k with status := .armed d }) s
      (visitSlot w h s).1 := by
  cases skipped : countsAsSkipped w e due with
  | false =>
    obtain ⟨x, visit, table⟩ := visitSlot_kept at_h armed skipped
    obtain ⟨rfl, rfl⟩ : x.getD due = d ∧ 0 = k := by simpa [stays] using table.symm.trans stays
    have same : e.missedMore 0 = e := by
      have small := e.missed.isLt
      simp [Entry.missedMore, addMissed, Nat.min_eq_left (Nat.le_of_lt_succ small)]
    rw [visit, same]
    exact realignTo_work_at at_h armed x
  | true =>
    have kind : e.schedule.kind ≠ .oneShot := fun kind => by
      simp [(visitSlot_skipped_oneShot at_h armed skipped kind).2] at stays
    obtain ⟨visit, table⟩ := visitSlot_skipped_recurring at_h armed skipped kind
    obtain ⟨d', later, same⟩ := Option.map_eq_some_iff.mp (table.symm.trans stays)
    obtain ⟨rfl, rfl⟩ : d' = d ∧ skipCount w e due = k := by simpa using same
    rw [visit]
    exact skipOver_later at_h later

/-- An entry with notify YES that a visit ends reports to its owner (R66, R73). -/
theorem visitSlot_reported (at_h : slot s h = some e) (armed : e.status = .armed due) (ends : realigned w e due = none)
    (notify : e.notify = true) {q : NoticeQueue} {terminal : Option Report}
    (taken : terminalTaken h e.tag (visitReport w e due s.tbu.timeline (!inMain s)) (s.queues.get e.owner) e.terminal =
      (q, terminal)) :
    EntryWork e.owner h (hasRoom s e.owner) q
      (some { e with
        status := .ended (visitCause e), missed := if e.schedule.kind = .oneShot then e.missed else 0,
        terminal := terminal })
      s (visitSlot w h s).1 := by
  have skipped : countsAsSkipped w e due = true := by
    by_contra kept
    obtain ⟨x, -, table⟩ := visitSlot_kept at_h armed (by simpa using kept)
    simp [ends] at table
  by_cases kind : e.schedule.kind = .oneShot
  · rw [visitReport_oneShot kind] at taken
    rw [(visitSlot_skipped_oneShot at_h armed skipped kind).1, visitCause, if_pos kind, if_pos kind]
    exact skipOneShot_reported at_h notify taken
  · obtain ⟨visit, table⟩ := visitSlot_skipped_recurring at_h armed skipped kind
    rw [visitReport_recurring kind (countsAsSkipped_iff.mp skipped).1] at taken
    rw [visit, visitCause, if_neg kind, if_neg kind]
    exact skipOver_reported at_h notify (by simpa [ends] using table) taken

/-- An entry with notify NO that a visit ends reports nothing; without a reference it is freed (R49, R73). -/
theorem visitSlot_silent (at_h : slot s h = some e) (armed : e.status = .armed due) (ends : realigned w e due = none)
    (silent : e.notify = false) :
    ∃ x, EntryWork e.owner h false (s.queues.get e.owner) x s (visitSlot w h s).1 ∧
      (hasReference s h e = false → x = none) := by
  have skipped : countsAsSkipped w e due = true := by
    by_contra kept
    obtain ⟨x, -, table⟩ := visitSlot_kept at_h armed (by simpa using kept)
    simp [ends] at table
  by_cases kind : e.schedule.kind = .oneShot
  · rw [(visitSlot_skipped_oneShot at_h armed skipped kind).1]
    exact skipOneShot_silent at_h silent
  · obtain ⟨visit, table⟩ := visitSlot_skipped_recurring at_h armed skipped kind
    rw [visit]
    exact skipOver_silent at_h silent (by simpa [ends] using table)

/-- A visit is work on its slot and on the queue of its entry's owner. -/
theorem entryWork_visitSlot (at_h : slot s h = some e) (armed : e.status = .armed due) :
    ∃ b q x, EntryWork e.owner h b q x s (visitSlot w h s).1 ∧
      (b = true ↔ realigned w e due = none ∧ e.notify = true ∧ hasRoom s e.owner = true) := by
  cases stays : realigned w e due with
  | some y => exact ⟨_, _, _, visitSlot_realigned at_h armed stays, by simp⟩
  | none =>
    cases notify : e.notify with
    | false =>
      obtain ⟨x, work, -⟩ := visitSlot_silent at_h armed stays notify
      exact ⟨_, _, x, work, by simp⟩
    | true => exact ⟨_, _, _, visitSlot_reported at_h armed stays notify rfl, by simp⟩

/-- A visit moves no strobe line and no slot but its own (R70). -/
theorem visitSlot_frame (w : Walk) (h : Handle) (s : State) :
    (visitSlot w h s).1.strobes = s.strobes ∧ ∀ g, g ≠ h → slot (visitSlot w h s).1 g = slot s g := by
  by_cases idle : ∀ e due, slot s h = some e → e.status ≠ .armed due
  · simp [visitSlot_of_idle idle]
  · push Not at idle
    obtain ⟨e, due, at_h, armed⟩ := idle
    obtain ⟨b, q, x, work, -⟩ := entryWork_visitSlot (w := w) at_h armed
    exact ⟨work.strobes, work.others⟩

/-- The skip count of a visit (R75). -/
theorem visitSlot_count (at_h : slot s h = some e) (armed : e.status = .armed due) :
    (visitSlot w h s).2 = if countsAsSkipped w e due then 1 else 0 := by
  cases skipped : countsAsSkipped w e due with
  | false =>
    obtain ⟨x, visit, -⟩ := visitSlot_kept at_h armed skipped
    simp [visit]
  | true =>
    by_cases kind : e.schedule.kind = .oneShot
    · simp [(visitSlot_skipped_oneShot at_h armed skipped kind).1]
    · simp [(visitSlot_skipped_recurring at_h armed skipped kind).1]

end Visit

/-! ### The visit of the walk -/

theorem walkVisit_eq {w : Walk} {s : State} (walk : walkOf s = some w) (hp : w.position < 96) :
    walkVisit s = setAgendaState
      (.realigning { w with
        position := w.position + 1, skipped := w.skipped + (visitSlot w ⟨w.position, hp⟩ s).2 })
      (visitSlot w ⟨w.position, hp⟩ s).1 := by
  simp [walkVisit, walk, hp]

theorem exec_walkVisit {s : State} (no_limit : limitDue s = false) : exec .walkVisit s = .next (walkVisit s) := by
  rw [exec_eq_row]
  simp [row, takesNoDueLimit, no_limit]

end Sys2Proof.Machine

open Sys2Proof Sys2Proof.Machine

/-- Settles O26: a visit is work on one slot (`visitSlot_realigned`, `visitSlot_reported`, `visitSlot_silent`), and the
walk record moves on. -/
theorem walkVisitTreatsOneSlot : Obligations.WalkVisitTreatsOneSlot := by
  unfold Obligations.WalkVisitTreatsOneSlot
  intro s w hp no_limit walk
  refine ⟨_, exec_walkVisit no_limit, ?_⟩
  rw [walkVisit_eq walk hp]
  generalize position : (⟨w.position, hp⟩ : Handle) = h
  obtain ⟨tbu, lease, pru, ports, spm, draws, pending, -, held, setup⟩ := visitSlot_work w h s
  obtain ⟨strobes, others⟩ := visitSlot_frame w h s
  refine ⟨by simpa using tbu, by simpa using lease, by simpa using strobes, by simpa using pru, by simpa using ports,
    by simpa using spm, by simpa using draws, by simpa using pending, by simpa using held, fun g ne => ?_, fun idle => ?_,
    fun e due at_h armed => ⟨?_, fun d k stays => ?_, fun r ne => ?_, ?_, fun ends silent alone => ?_,
      fun ends notify => ?_⟩⟩
  · have elsewhere : g ≠ h := fun same => ne (by rw [same, ← position])
    simpa using others g elsewhere
  · rw [visitSlot_of_idle idle]
    rfl
  · simp [visitSlot_count at_h armed]
  · have work := visitSlot_realigned at_h armed stays
    exact ⟨by simpa [Entry.missedMore, addMissed] using work.here, by simpa using work.queues,
      by simpa using (work.line.idle rfl).1⟩
  · obtain ⟨b, q, x, work, -⟩ := entryWork_visitSlot (w := w) at_h armed
    simpa using work.line.others r ne
  · exact setup e.owner
  · obtain ⟨x, work, freed⟩ := visitSlot_silent at_h armed ends silent
    exact ⟨by simpa [freed alone] using work.here, by simpa using work.queues, by simpa using (work.line.idle rfl).1⟩
  · obtain ⟨⟨q, terminal⟩, taken⟩ : ∃ y, terminalTaken h e.tag (visitReport w e due s.tbu.timeline (!inMain s))
      (s.queues.get e.owner) e.terminal = y := ⟨_, rfl⟩
    have work := visitSlot_reported at_h armed ends notify taken
    refine ⟨_, (slot_setAgendaState _ _ h).trans work.here, ⟨rfl, rfl, rfl, rfl, rfl, rfl, rfl⟩, rfl, rfl, rfl,
      fun room => ?_, fun full => ?_⟩
    · rw [terminalTaken, if_pos ((hasRoom_iff_lt s e.owner).mp room), Prod.mk.injEq] at taken
      obtain ⟨rfl, rfl⟩ := taken
      refine ⟨?_, work.queues, rfl⟩
      refine lineAnswers_congr (t := (visitSlot w h s).1) (by simp) ?_ (work.line.answers room).2
      exact attnCondition_congr (by simp) (by simp) (by simp [noticeSource])
    · rw [terminalTaken, if_neg fun short => by simp [(hasRoom_iff_lt s e.owner).mpr short] at full,
        Prod.mk.injEq] at taken
      obtain ⟨rfl, rfl⟩ := taken
      exact ⟨by simpa using work.queues, by simpa using (work.line.idle full).1, rfl⟩

end

section
/-! PROOFS. A firing is counted once (R92, R95). -/

-- One proof after the other: the memory limit of the check bounds the threads of Lean.
set_option Elab.async false

namespace Sys2Proof.Machine

/-- The UNDELIVERED FIRED notice of a handle, merged with an occurrence (R92). -/
def mergedInto (h : Handle) (r : Report) (n : Notice) : Notice :=
  if isOpenFor h n then { n with report := combine n.report r } else n

theorem isOpenFor_iff (h : Handle) (n : Notice) :
    isOpenFor h n = true ↔ n.handle = h ∧ n.delivered = false ∧ n.report.reason = .fired := by
  simp [isOpenFor, and_assoc]

@[simp] theorem mergedInto_handle (h : Handle) (r : Report) (n : Notice) : (mergedInto h r n).handle = n.handle := by
  unfold mergedInto
  split_ifs <;> rfl

/-- A count that one more raises by one, but for a count at 65535 (R91). -/
theorem combine_one_fires {x r : Report} (one : r.fires = 1) :
    (combine x r).fires.toNat = x.fires.toNat + 1 ∨ ((combine x r).fires.toNat = x.fires.toNat ∧ x.fires = 0xFFFF) := by
  have sum := combine_fires x r
  rw [one] at sum
  by_cases top : x.fires = 0xFFFF
  · exact .inr ⟨by rw [sum, top]; rfl, top⟩
  · have below : x.fires.toNat ≠ 65535 := fun full => top (BitVec.eq_of_toNat_eq full)
    have small := x.fires.isLt
    have : (1 : Half).toNat = 1 := rfl
    exact .inl (by omega)

theorem noticeFires_cons (h : Handle) (n : Notice) (l : List Notice) :
    noticeFires h (n :: l) = noticeFires h [n] + noticeFires h l := noticeFires_append h [n] l

/-- Notices without an open one are left as they are by a merge. -/
theorem map_mergedInto_of_none {h : Handle} {r : Report} {l : List Notice} (shut : l.countP (isOpenFor h) = 0) :
    l.map (mergedInto h r) = l := by
  refine (List.map_congr_left fun n hn => ?_).trans (List.map_id l)
  have closed := List.countP_eq_zero.mp shut n hn
  simp [mergedInto, closed]

/-- A merge adds one to the fires of the one open notice, unless they stand at 65535 (R91, R92). -/
theorem noticeFires_merged {h : Handle} {r : Report} (one : r.fires = 1) {l : List Notice}
    (opened : l.countP (isOpenFor h) = 1) :
    noticeFires h (l.map (mergedInto h r)) = noticeFires h l + 1 ∨
      (noticeFires h (l.map (mergedInto h r)) = noticeFires h l ∧
        ∃ n ∈ l, n.handle = h ∧ n.delivered = false ∧ n.report.fires = 0xFFFF) := by
  induction l with
  | nil => simp at opened
  | cons n l ih =>
    rw [List.map_cons, noticeFires_cons, noticeFires_cons h n]
    cases open_n : isOpenFor h n with
    | true =>
      rw [List.countP_cons_of_pos open_n] at opened
      obtain ⟨here, undelivered, -⟩ := (isOpenFor_iff h n).mp open_n
      have merged : (mergedInto h r n).report = combine n.report r := by simp [mergedInto, open_n]
      rw [map_mergedInto_of_none (by omega), noticeFires_one, noticeFires_one, mergedInto_handle, merged]
      simp only [if_pos here]
      rcases combine_one_fires (x := n.report) one with more | ⟨same, full⟩
      · left
        omega
      · right
        exact ⟨by omega, n, by simp, here, undelivered, full⟩
    | false =>
      have same : mergedInto h r n = n := by simp [mergedInto, open_n]
      rw [List.countP_cons_of_neg (by simp [open_n])] at opened
      rw [same]
      rcases ih opened with more | ⟨equal, m, mem, full⟩
      · left
        omega
      · right
        exact ⟨by omega, m, List.mem_cons_of_mem n mem, full⟩

/-- A merge leaves the fires of every other handle. -/
theorem noticeFires_merged_other {g h : Handle} (ne : g ≠ h) (r : Report) (l : List Notice) :
    noticeFires g (l.map (mergedInto h r)) = noticeFires g l := by
  induction l with
  | nil => rfl
  | cons n l ih =>
    rw [List.map_cons, noticeFires_cons, noticeFires_cons g n, ih, noticeFires_one, noticeFires_one, mergedInto_handle]
    split_ifs with here
    · have closed : isOpenFor h n = false := by simp [isOpenFor, here, ne]
      simp [mergedInto, closed]
    · rfl

section Taken
variable {p : Port} {h : Handle} {e : Entry} {tag : Half} {r : Report} {s : State}

theorem takeOccurrence_of_open (opened : (s.queues.get p).notices.any (isOpenFor h) = true) :
    takeOccurrence p h tag r s =
      replaceQueue p { s.queues.get p with notices := (s.queues.get p).notices.map (mergedInto h r) } s := by
  rw [takeOccurrence, if_pos opened]
  rfl

theorem takeOccurrence_of_room (shut : (s.queues.get p).notices.any (isOpenFor h) = false) (room : hasRoom s p = true) :
    takeOccurrence p h tag r s = appendNotice p h tag r s := by
  simp [takeOccurrence, shut, room]

theorem takeOccurrence_of_full (shut : (s.queues.get p).notices.any (isOpenFor h) = false) (full : hasRoom s p = false) :
    takeOccurrence p h tag r s =
      updateParts h (fun x => { x with summary := combineAll (x.summary.toList ++ [r]) }) s := by
  simp [takeOccurrence, shut, full]

theorem firesTotal_replaceQueue (g : Handle) (q : NoticeQueue) :
    firesTotal p g (replaceQueue p q s) = noticeFires g q.notices + summaryFires ((slot s g).bind (·.summary)) := by
  rw [firesTotal_eq]
  simp

theorem firesTotal_appendNotice (g : Handle) :
    firesTotal p g (appendNotice p h tag r s) = firesTotal p g s + if h = g then r.fires.toNat else 0 := by
  rw [appendNotice, firesTotal_replaceQueue, firesTotal_eq, noticeFires_append, noticeFires_one]
  exact Nat.add_right_comm _ _ _

theorem firesTotal_updateParts (at_h : slot s h = some e) (f : EntryParts → EntryParts) :
    firesTotal p h (updateParts h f s) = noticeFires h (s.queues.get p).notices + summaryFires (f e.parts).summary := by
  simp [firesTotal_eq, at_h]

end Taken

end Sys2Proof.Machine

open Sys2Proof Sys2Proof.Machine

/-- Settles O35, by the three cases of R92: merged into the open notice, appended, or merged into the summary. -/
theorem eachFiringIsCountedOnce : Obligations.EachFiringIsCountedOnce := by
  unfold Obligations.EachFiringIsCountedOnce
  rintro s p h e tag r ⟨-, -, single, -⟩ at_h fired one
  cases opened : (s.queues.get p).notices.any (isOpenFor h) with
  | true =>
    rw [takeOccurrence_of_open opened]
    refine ⟨?_, fun g ne => ?_⟩
    · have exactly_one : (s.queues.get p).notices.countP (isOpenFor h) = 1 :=
        Nat.le_antisymm (single h) (List.countP_pos_iff.mpr (by simpa using opened))
      rw [firesTotal_replaceQueue, firesTotal_eq]
      rcases noticeFires_merged one exactly_one with more | ⟨same, n, hn, full⟩
      · exact .inl (by simp only [more]; omega)
      · exact .inr ⟨by simp only [same], .inl ⟨n, hn, full⟩⟩
    · rw [firesTotal_replaceQueue, firesTotal_eq]
      simp only [noticeFires_merged_other ne]
  | false =>
    cases room : hasRoom s p with
    | true =>
      rw [takeOccurrence_of_room opened room]
      rw [firesTotal_appendNotice, if_pos rfl, one]
      exact ⟨.inl rfl, fun g ne => by rw [firesTotal_appendNotice, if_neg (Ne.symm ne), Nat.add_zero]⟩
    | false =>
      rw [takeOccurrence_of_full opened room]
      refine ⟨?_, fun g ne => by simp [firesTotal_eq, ne]⟩
      rw [firesTotal_updateParts at_h, firesTotal_eq, at_h]
      cases summary : e.summary with
      | none => exact .inl (by simp [Entry.parts, summary, combineAll, summaryFires, one])
      | some x =>
        simp only [Entry.parts, summary, combineAll, summaryFires, Option.toList_some, List.cons_append,
          List.nil_append, List.foldl_cons, List.foldl_nil, Option.bind_some]
        rcases combine_one_fires (x := x) one with more | ⟨same, full⟩
        · exact .inl (by omega)
        · exact .inr ⟨by omega, .inr ⟨x, rfl, full⟩⟩

end

section
/-! PROOFS. Commands at a ready port that are answered at once: the hand-over of each row (R177, R178), the rights (R123,
R151), steering (R10, R13), resets (R156, R183), and the hand-over to the AGU (R81, R82). -/

-- One proof after the other: the memory limit of the check bounds the threads of Lean.
set_option Elab.async false

namespace Sys2Proof.Machine

/-! ### The rows of the commands -/

section Sent
variable {p : Port} {snap : Snapshot} {s : State} {seq : Byte} {payload : List Byte}

/-- A row that stands for the release after a REQUEST frame of the right length runs its command (R177, R178). -/
theorem exec_of_sent {c : Instr} {code : Byte} {n : Nat} (ready : Ready p snap s)
    (row : exec c s = .next (sendRequest p code seq payload (takeDueLimits s))) (known : payloadLength code = some n)
    (length : payload.length = n) :
    exec c s = .next (runCommand p code payload (outstanding p snap code seq payload false s)) := by
  rw [row, sendRequest_runs seq ready (by rw [known, length])]

theorem exec_selfReset (ready : Ready p snap s) :
    exec (.selfReset p seq []) s = .next (portReset p (outstanding p snap codeSelfReset seq [] false s)) := by
  rw [exec_of_sent (code := codeSelfReset) (payload := []) (seq := seq) ready rfl rfl rfl, runCommand_selfReset,
    runSelfReset]

theorem exec_stepTime (ready : Ready p snap s) (length : payload.length = 8) :
    exec (.stepTime p seq payload) s =
      .next (withAuthority p (handToAgenda p (.step payload)) (outstanding p snap 0x14 seq payload false s)) :=
  exec_of_sent (code := codeStepTime) ready rfl rfl length

theorem exec_slewTime (ready : Ready p snap s) (length : payload.length = 4) :
    exec (.slewTime p seq payload) s =
      .next (withAuthority p (runSlewTime p payload) (outstanding p snap 0x15 seq payload false s)) :=
  exec_of_sent (code := codeSlewTime) ready rfl rfl length

theorem exec_setTrim (ready : Ready p snap s) (length : payload.length = 1) :
    exec (.setTrim p seq payload) s =
      .next (withAuthority p (runSetTrim p payload) (outstanding p snap 0x16 seq payload false s)) :=
  exec_of_sent (code := codeSetTrim) ready rfl rfl length

theorem exec_createEntry (ready : Ready p snap s) (length : payload.length = 25) :
    exec (.createEntry p seq payload) s =
      .next (handToAgenda p (.create payload) (outstanding p snap 0x20 seq payload false s)) :=
  exec_of_sent (code := codeCreateEntry) ready rfl rfl length

theorem exec_cancelEntry (ready : Ready p snap s) (length : payload.length = 1) :
    exec (.cancelEntry p seq payload) s =
      .next (handToAgenda p (.cancel payload) (outstanding p snap 0x21 seq payload false s)) :=
  exec_of_sent (code := codeCancelEntry) ready rfl rfl length

theorem exec_queryEntry (ready : Ready p snap s) (length : payload.length = 1) :
    exec (.queryEntry p seq payload) s =
      .next (handToAgenda p (.query payload) (outstanding p snap 0x22 seq payload false s)) :=
  exec_of_sent (code := codeQueryEntry) ready rfl rfl length

theorem exec_listOwn (ready : Ready p snap s) :
    exec (.listOwn p seq []) s = .next (handToAgenda p .listOwn (outstanding p snap 0x23 seq [] false s)) :=
  exec_of_sent (code := codeListOwn) ready rfl rfl rfl

theorem exec_takeNotices (ready : Ready p snap s) (length : payload.length = 1) :
    exec (.takeNotices p seq payload) s =
      .next (runTakeNotices p payload (outstanding p snap 0x30 seq payload false s)) :=
  exec_of_sent (code := codeTakeNotices) ready rfl rfl length

theorem exec_clearFlags (ready : Ready p snap s) (length : payload.length = 2) :
    exec (.clearFlags p seq payload) s = .next (runClearFlags p payload (outstanding p snap 0x41 seq payload false s)) :=
  exec_of_sent (code := codeClearFlags) ready rfl rfl length

theorem exec_setAttention (ready : Ready p snap s) (length : payload.length = 3) :
    exec (.setAttention p seq payload) s =
      .next (runSetAttention p payload (outstanding p snap 0x42 seq payload false s)) :=
  exec_of_sent (code := codeSetAttention) ready rfl rfl length

theorem exec_setProfile (ready : Ready p snap s) (length : payload.length = 7) :
    exec (.setProfile p seq payload) s =
      .next (withAdmin p (runSetProfile p payload) (outstanding p snap 0x51 seq payload false s)) :=
  exec_of_sent (code := codeSetProfile) ready rfl rfl length

theorem exec_setStrobeMap (ready : Ready p snap s) (length : payload.length = 4) :
    exec (.setStrobeMap p seq payload) s =
      .next (withAdmin p (runSetStrobeMap p payload) (outstanding p snap 0x52 seq payload false s)) :=
  exec_of_sent (code := codeSetStrobeMap) ready rfl rfl length

theorem exec_resetPort (ready : Ready p snap s) (length : payload.length = 1) :
    exec (.resetPort p seq payload) s =
      .next (withAdmin p (runResetPort p payload) (outstanding p snap 0x53 seq payload false s)) :=
  exec_of_sent (code := codeResetPort) ready rfl rfl length

theorem exec_readCalendar (ready : Ready p snap s) :
    exec (.readCalendar p seq []) s = .next (runReadCalendar p (outstanding p snap 0x11 seq [] false s)) :=
  exec_of_sent (code := codeReadCalendar) ready rfl rfl rfl

end Sent

/-! ### Rights (R123, R151) -/

theorem withAuthority_of_holder {p : Port} {run : State → State} {s : State} (holder : isHolder s p = true) :
    withAuthority p run s = run s := if_pos holder

theorem withAuthority_of_other {p : Port} {run : State → State} {s : State} (other : isHolder s p = false) :
    withAuthority p run s = complete p .notHolder [] s := by simp [withAuthority, other]

theorem withAdmin_of_admin {p : Port} {run : State → State} {s : State} (admin : (s.pru.profiles.get p).admin = true) :
    withAdmin p run s = run s := if_pos admin

theorem withAdmin_of_other {p : Port} {run : State → State} {s : State} (other : (s.pru.profiles.get p).admin = false) :
    withAdmin p run s = complete p .notPermitted [] s := by simp [withAdmin, other]

/-- Settles O15: the check of the right stands before the block that would examine the payload. -/
theorem commandsNeedTheirRight : Obligations.CommandsNeedTheirRight := by
  intro p snap s seq payload ready
  refine ⟨fun other => ⟨fun length => ?_, fun length => ?_, fun length => ?_⟩,
    fun other => ⟨fun length => ?_, fun length => ?_, fun length => ?_⟩⟩
  · rw [exec_stepTime ready length, withAuthority_of_other (by simpa using other), complete_outstanding]
  · rw [exec_slewTime ready length, withAuthority_of_other (by simpa using other), complete_outstanding]
  · rw [exec_setTrim ready length, withAuthority_of_other (by simpa using other), complete_outstanding]
  · rw [exec_setProfile ready length, withAdmin_of_other (by simpa using other), complete_outstanding]
  · rw [exec_setStrobeMap ready length, withAdmin_of_other (by simpa using other), complete_outstanding]
  · rw [exec_resetPort ready length, withAdmin_of_other (by simpa using other), complete_outstanding]

/-! ### Slew and trim (R10, R13) -/

theorem field_signedBytes (n : Nat) (x : Int) : field (signedBytes n x) 0 n = signedBytes n x :=
  field_self (signedBytes_length n x)

theorem runSlewTime_of_range {p : Port} {s : State} {x : Int} (lo : -1048576 ≤ x) (hi : x ≤ 1048576) :
    runSlewTime p (signedBytes 4 x) s =
      complete p .ok (signedBytes 4 s.tbu.slew) { s with tbu := { s.tbu with slew := x } } := by
  have amount : ofSignedBytes (signedBytes 4 x) = x := ofSignedBytes_signedBytes (by omega) (by omega)
  simp only [runSlewTime, field_signedBytes, amount, maxSlew]
  rw [if_neg (by omega)]
  rfl

theorem runSlewTime_of_outside {p : Port} {s : State} {x : Int} (lo : -2147483648 ≤ x) (hi : x ≤ 2147483647)
    (outside : ¬ (-1048576 ≤ x ∧ x ≤ 1048576)) : runSlewTime p (signedBytes 4 x) s = complete p .badValue [] s := by
  have amount : ofSignedBytes (signedBytes 4 x) = x := ofSignedBytes_signedBytes (by omega) (by omega)
  simp only [runSlewTime, field_signedBytes, amount, maxSlew]
  rw [if_pos (by omega)]

theorem runSetTrim_of_range {p : Port} {s : State} {x : Int} (lo : -63 ≤ x) (hi : x ≤ 63) :
    runSetTrim p (signedBytes 1 x) s =
      complete p .ok (signedBytes 1 s.tbu.trim) { s with tbu := { s.tbu with trim := x } } := by
  have trim : ofSignedBytes (signedBytes 1 x) = x := ofSignedBytes_signedBytes (by omega) (by omega)
  simp only [runSetTrim, field_signedBytes, trim, maxTrim]
  rw [if_neg (by omega)]
  rfl

theorem runSetTrim_of_outside {p : Port} {s : State} {x : Int} (lo : -128 ≤ x) (hi : x ≤ 127)
    (outside : ¬ (-63 ≤ x ∧ x ≤ 63)) : runSetTrim p (signedBytes 1 x) s = complete p .badValue [] s := by
  have trim : ofSignedBytes (signedBytes 1 x) = x := ofSignedBytes_signedBytes (by omega) (by omega)
  simp only [runSetTrim, field_signedBytes, trim, maxTrim]
  rw [if_pos (by omega)]

/-- Settles O14: the value is read back from its bytes, and the range decides. -/
theorem slewAndTrimAreReplaced : Obligations.SlewAndTrimAreReplaced := by
  intro p snap s seq x ready holder
  refine ⟨fun lo hi => ?_, fun lo hi => ?_⟩
  · rw [exec_slewTime ready (signedBytes_length 4 x), withAuthority_of_holder (by simpa using holder)]
    congr 1
    split_ifs with range
    · rw [runSlewTime_of_range range.1 range.2]
      exact complete_outstanding p snap 0x15 seq _ false .ok _ { s with tbu := { s.tbu with slew := x } }
    · rw [runSlewTime_of_outside lo hi range, complete_outstanding]
  · rw [exec_setTrim ready (signedBytes_length 1 x), withAuthority_of_holder (by simpa using holder)]
    congr 1
    split_ifs with range
    · rw [runSetTrim_of_range range.1 range.2]
      exact complete_outstanding p snap 0x16 seq _ false .ok _ { s with tbu := { s.tbu with trim := x } }
    · rw [runSetTrim_of_outside lo hi range, complete_outstanding]

/-! ### The five agenda commands (R81, R82) -/

theorem handToAgenda_of_running {p : Port} {c : AgendaCommand} {s : State} (running : isRunning s = true) :
    handToAgenda p c s = runAgendaCommand p c s := if_pos running

theorem handToAgenda_of_walk {p : Port} {c : AgendaCommand} {s : State} (walk : isRunning s = false) :
    handToAgenda p c s = markHeld p true (setHeld p (some c) s) := by simp [handToAgenda, walk]

/-- While REALIGNING the command is put in its port's place, and the mark held is set (R81). -/
theorem handToAgenda_outstanding {p : Port} {snap : Snapshot} {code seq : Byte} {payload : List Byte} {s : State}
    (c : AgendaCommand) (walk : isRunning s = false) :
    handToAgenda p c (outstanding p snap code seq payload false s) =
      outstanding p snap code seq payload true
        { s with agu := { s.agu with held := s.agu.held.set p (some c) } } := by
  rw [handToAgenda_of_walk (by simpa using walk)]
  simp [markHeld, setHeld, outstanding, transacted, State.setPort, State.setAgu]

/-- Settles O20: the agenda state decides whether the AGU takes the command at once or holds it. -/
theorem fiveCommandsAreHeld : Obligations.FiveCommandsAreHeld := by
  intro p snap s seq payload ready
  refine ⟨fun running => ⟨fun length holder => ?_, fun length => ?_, fun length => ⟨?_, ?_⟩, ?_⟩,
    fun walk => ⟨fun length holder => ?_, fun length => ?_, fun length => ?_, fun length => ?_, ?_⟩⟩
  · rw [exec_stepTime ready length, withAuthority_of_holder (by simpa using holder),
      handToAgenda_of_running (by simpa using running)]
  · rw [exec_createEntry ready length, handToAgenda_of_running (by simpa using running)]
  · rw [exec_cancelEntry ready length, handToAgenda_of_running (by simpa using running)]
  · rw [exec_queryEntry ready length, handToAgenda_of_running (by simpa using running)]
  · rw [exec_listOwn ready, handToAgenda_of_running (by simpa using running)]
  · rw [exec_stepTime ready length, withAuthority_of_holder (by simpa using holder), handToAgenda_outstanding _ walk]
  · rw [exec_createEntry ready length, handToAgenda_outstanding _ walk]
  · rw [exec_cancelEntry ready length, handToAgenda_outstanding _ walk]
  · rw [exec_queryEntry ready length, handToAgenda_outstanding _ walk]
  · rw [exec_listOwn ready, handToAgenda_outstanding _ walk]

/-! ### The resets that a command makes (R156, R183) -/

theorem runResetPort_of_no_port {p : Port} {payload : List Byte} {s : State}
    (unnamed : portOfCode (byteAt payload 0) = none) : runResetPort p payload s = complete p .badValue [] s := by
  simp [runResetPort, unnamed]

theorem runResetPort_own (p : Port) (s : State) : runResetPort p [portCode p] s = portReset p s := by
  simp [runResetPort, portOfCode_portCode]

theorem runResetPort_other {p t : Port} (other : t ≠ p) (s : State) :
    runResetPort p [portCode t] s = complete p .ok [portCode t, portStateCode (s.ports.get t).state] (portReset t s) := by
  simp [runResetPort, portOfCode_portCode, other]

/-- Settles O44: RESET_PORT is split by the port that its letter names. -/
theorem resetCommandsResetThePort : Obligations.ResetCommandsResetThePort := by
  intro p snap s seq ready
  refine ⟨exec_selfReset ready, fun admin => ⟨fun x outside => ?_, ?_, fun t other => ?_⟩⟩
  · have unnamed : portOfCode (byteAt [x] 0) = none := (portOfCode_eq_none_iff x).mpr outside
    rw [exec_resetPort ready rfl, withAdmin_of_admin (by simpa using admin), runResetPort_of_no_port unnamed,
      complete_outstanding]
  · rw [exec_resetPort ready rfl, withAdmin_of_admin (by simpa using admin), runResetPort_own]
  · rw [exec_resetPort ready rfl, withAdmin_of_admin (by simpa using admin), runResetPort_other other]
    simp [other]

/-! ### Steps, the crystal monitor, the supply rows and the expiries -/

/-- Settles O1: a step reads the front of the queue. -/
theorem stepRunsTheFrontCommand : Obligations.StepRunsTheFrontCommand := by
  refine ⟨fun c rest s front => ?_, fun s empty => ?_⟩
  · rw [step, front]
  · rw [step, empty]

section Rows
variable {s : State} (no_limit : limitDue s = false)
include no_limit

/-- A row that takes the due limits first finds none (R3). -/
theorem exec_of_no_limit {c : Instr} : exec c s = .next (row c s) := by
  rw [exec_eq_row, takeDueLimits_of_none no_limit, ite_self]

theorem exec_crystalStop : exec .crystalStop s = .next (crystalStop s) := exec_of_no_limit no_limit

theorem exec_crystalTransition (ends : Bool) : exec (.crystalTransition ends) s = .next (crystalTransition ends s) :=
  exec_of_no_limit no_limit

theorem exec_oscillatorTick : exec .oscillatorTick s = .next (oscillatorTick s) := exec_of_no_limit no_limit

end Rows

theorem crystalStop_of_running {s : State} (running : s.tbu.monitor = .running) :
    crystalStop s = if s.tbu.validity = .suspect then { s with tbu := { s.tbu with monitor := .stopped } }
      else handFlagToAll .validity { s with tbu := { s.tbu with monitor := .stopped, validity := .suspect } } := by
  by_cases suspect : s.tbu.validity = .suspect
  · rw [if_pos suspect, crystalStop, if_pos running]
    simp [handValidityChange, State.setTbu, suspect]
  · rw [if_neg suspect, crystalStop, if_pos running, handValidityChange, if_pos (by simpa using Ne.symm suspect)]
    rfl

/-- A tick sets the monitor to RUNNING, whatever stood there (R1, R15; log 9). -/
theorem oscillatorTick_monitor (s : State) (m : CrystalMonitor) :
    oscillatorTick (s.setTbu { s.tbu with monitor := m }) = oscillatorTick s := by
  rfl

/-- Settles O17: each row of the crystal monitor by its condition. -/
theorem crystalMonitorJudges : Obligations.CrystalMonitorJudges := by
  intro s no_limit
  rw [exec_crystalStop no_limit, exec_crystalTransition no_limit, exec_crystalTransition no_limit,
    exec_oscillatorTick no_limit]
  refine ⟨fun running => by rw [crystalStop_of_running running], fun idle => by rw [crystalStop, if_neg idle], rfl,
    fun middle => ?_, fun last => ?_⟩
  · rw [crystalTransition, if_pos rfl, if_neg middle]
    rfl
  · rw [crystalTransition, if_pos rfl, if_pos last, oscillatorTick_monitor]

end Sys2Proof.Machine
end

section
/-! PROOFS. The expiries one by one (R3), pulse requests (R142), settle and backup rows (R187, R191), and the flag commands
(R131, R134). -/

-- One proof after the other: the memory limit of the check bounds the threads of Lean.
set_option Elab.async false

namespace Sys2Proof.Machine

/-! ### The rows of the expiries, as their conditions give them -/

section Expiries
variable {s : State}

theorem leaseExpiry_of_end {l : Lease} (held : s.lease = some l) (due : l.endAt = s.tbu.mono) :
    leaseExpiry s = handFlag .leaseLost l.holder { s with lease := none } := by
  simp [leaseExpiry, leaseDue, held, due, loseLease, State.setLease]

theorem leaseDue_eq_false (later : ∀ l, s.lease = some l → l.endAt ≠ s.tbu.mono) : leaseDue s = false := by
  cases held : s.lease with
  | none => simp [leaseDue, held]
  | some l => simp [leaseDue, held, later l held]

theorem attnPulseDue_iff (p : Port) : attnPulseDue s p = true ↔ (s.attn.get p).pulseEnd = some s.tbu.mono := by
  cases pulse : (s.attn.get p).pulseEnd <;> simp [attnPulseDue, pulse]

theorem strobePulseDue_iff (l : Line) : strobePulseDue s l = true ↔ s.strobes.get l = .pulsing s.tbu.mono := by
  cases line : s.strobes.get l <;> simp [strobePulseDue, line]

theorem frameLimitDue_eq_false {p : Port}
    (later : ∀ limit snap received, (s.ports.get p).receiver = .receiving limit snap received → limit ≠ s.tbu.mono) :
    frameLimitDue s p = false := by
  cases receiver : (s.ports.get p).receiver with
  | receiving limit snap received => simp [frameLimitDue, receiver, later limit snap received receiver]
  | waiting => simp [frameLimitDue, receiver]
  | discarding => simp [frameLimitDue, receiver]

theorem frameTimeout_of_end {p : Port} {snap : Snapshot} {received : Received}
    (receiver : (s.ports.get p).receiver = .receiving s.tbu.mono snap received) :
    frameTimeout p s =
      frameErrorAt p .timeout { s with ports := s.ports.set p { s.ports.get p with receiver := .discarding } } := by
  have due : frameLimitDue s p = true := by simp [frameLimitDue, receiver]
  rw [frameTimeout_of_due due, discardTransaction, receiver]
  rfl

end Expiries

/-- Settles O19: each expiry by its condition, which names the monotonic count. -/
theorem timeLimitsExpire : Obligations.TimeLimitsExpire := by
  intro s
  refine ⟨fun l held due => ?_, fun later => ?_, fun p due => ?_, fun p later => ?_, fun l due => ?_, fun l later => ?_,
    fun p snap received receiver => ?_, fun p later => ?_⟩
  · exact congrArg _ (leaseExpiry_of_end held due)
  · exact congrArg _ (leaseExpiry_of_not_due (leaseDue_eq_false later))
  · exact congrArg _ (attnPulseEnd_of_due ((attnPulseDue_iff p).mpr due))
  · exact congrArg _ (attnPulseEnd_of_not_due (by simpa [← attnPulseDue_iff] using later))
  · exact congrArg _ (strobePulseEnd_of_due ((strobePulseDue_iff l).mpr due))
  · exact congrArg _ (strobePulseEnd_of_not_due (by simpa [← strobePulseDue_iff] using later))
  · exact congrArg _ (frameTimeout_of_end receiver)
  · exact congrArg _ (frameTimeout_of_not_due (frameLimitDue_eq_false later))

/-! ### Pulse requests (R142) -/

/-- The later of two ends is one of them, with the greater remaining count (R142). -/
theorem laterEnd_spec (mono present wanted : Mono) :
    (laterEnd mono present wanted = present ∨ laterEnd mono present wanted = wanted) ∧
      (laterEnd mono present wanted - mono).toNat = max (present - mono).toNat (wanted - mono).toNat := by
  unfold laterEnd remaining
  split_ifs with later
  · exact ⟨.inr rfl, (Nat.max_eq_right (Nat.le_of_lt later)).symm⟩
  · exact ⟨.inl rfl, (Nat.max_eq_left (BitVec.le_def.mp (BitVec.not_lt.mp later))).symm⟩

/-- A pulse of a width has that width to go (R3, R142). -/
theorem width_remaining (mono : Mono) (width : Byte) : (mono + width.setWidth 48 - mono).toNat = width.toNat := by
  have small := width.isLt
  bv_omega

theorem requestPulse_suppressed {a : StrobeAction} {owner : Port} {s : State}
    (refused : (s.pru.strobeMap.get a.line).owner ≠ some owner ∨ s.spm.supply ≠ .main) :
    requestPulse (some a) owner s = (s, true) := by
  have not_driven : ¬ ((s.pru.strobeMap.get a.line).owner = some owner ∧ inMain s = true) := by
    rw [inMain_iff]
    tauto
  simp only [requestPulse, if_neg not_driven]

/-- The end that a driven pulse request gives its line (R142). -/
def requestedEnd (a : StrobeAction) (s : State) : Mono :=
  match s.strobes.get a.line with
  | .idle => s.tbu.mono + a.width.setWidth 48
  | .pulsing present => laterEnd s.tbu.mono present (s.tbu.mono + a.width.setWidth 48)

theorem requestPulse_driven {a : StrobeAction} {owner : Port} {s : State}
    (mapped : (s.pru.strobeMap.get a.line).owner = some owner) (main : s.spm.supply = .main) :
    requestPulse (some a) owner s = (s.setStrobe a.line (.pulsing (requestedEnd a s)), false) := by
  simp only [requestPulse, if_pos (And.intro mapped ((inMain_iff s).mpr main)), requestedEnd]
  cases s.strobes.get a.line <;> rfl

/-- Settles O29: the map and the supply decide, and the present end is compared by its remaining count. -/
theorem pulseRequestIsJudged : Obligations.PulseRequestIsJudged := by
  intro s a owner
  refine ⟨requestPulse_suppressed, fun mapped main => ⟨requestedEnd a s, requestPulse_driven mapped main, fun idle => ?_,
    fun present pulses => ?_⟩⟩
  · rw [requestedEnd, idle]
  · obtain ⟨one, rest⟩ := laterEnd_spec s.tbu.mono present (s.tbu.mono + a.width.setWidth 48)
    rw [width_remaining] at rest
    rw [requestedEnd, pulses]
    exact ⟨one, rest⟩

/-! ### Settle and backup rows (R187, R191) -/

theorem settleAbort_of_settling {s : State} {e : Mono} (settling : s.spm.supply = .settling e) :
    settleAbort s = { s with spm := { s.spm with supply := .holdover } } := by
  simp only [settleAbort, settling]
  rfl

theorem settleAbort_of_other {s : State} (other : ∀ e, s.spm.supply ≠ .settling e) : settleAbort s = s := by
  cases supply : s.spm.supply with
  | settling e => exact absurd supply (other e)
  | main => simp only [settleAbort, supply]
  | holdover => simp only [settleAbort, supply]

/-- Settles O54: each row by the supply or backup state that it finds. -/
theorem supplyRowsMoveTheirState : Obligations.SupplyRowsMoveTheirState := by
  intro s
  refine ⟨fun no_limit => ?_, fun e settling => ?_, fun idle => ?_⟩
  · simp only [exec_of_no_limit no_limit, row]
    refine ⟨fun holdover => ?_, fun other => ?_, fun present => ⟨?_, ?_⟩, fun low => ⟨?_, ?_⟩⟩
    · rw [settleStart, if_pos holdover]
      rfl
    · rw [settleStart, if_neg other]
    · rw [backupLow, if_pos present]
      rfl
    · rw [backupPresent, if_neg (by simp [present])]
    · rw [backupPresent, if_pos low]
      rfl
    · rw [backupLow, if_neg (by simp [low])]
  · exact congrArg Host.Outcome.next (settleAbort_of_settling settling)
  · exact congrArg Host.Outcome.next (settleAbort_of_other idle)

/-! ### CLEAR_FLAGS (R131) -/

section ClearFlags
variable {p : Port} {s : State} {x : Half}

theorem numField_half (x : Half) : numField (toBytes 2 x.toNat) 0 2 = x.toNat := numField_toBytes x.isLt

theorem runClearFlags_refused (outside : 512 ≤ x.toNat) :
    runClearFlags p (toBytes 2 x.toNat) s = complete p .badValue [] s := by
  simp only [runClearFlags, numField_half, if_pos outside]

/-- The ASU state of a port after flags were cleared, before the condition is formed again (R131). -/
def clearedFlags (set : BitVec 9) (a : Attn) : Attn :=
  { a with flags := a.flags &&& ~~~set, cause := if a.flags.getLsbD 6 = true ∧ set.getLsbD 6 = true then .none else a.cause }

/-- The state after flags of a port were cleared (R131). -/
def flagsCleared (p : Port) (set : BitVec 9) (s : State) : State :=
  followAttention p (attnCondition s p) (s.setAttn p (clearedFlags set (s.attn.get p)))

theorem runClearFlags_taken (inside : x.toNat < 512) :
    runClearFlags p (toBytes 2 x.toNat) s =
      complete p .ok
        (toBytes 2 ((s.attn.get p).flags &&& x.setWidth 9).toNat ++
          toBytes 2 (clearedFlags (x.setWidth 9) (s.attn.get p)).flags.toNat ++
          [causeCode (clearedFlags (x.setWidth 9) (s.attn.get p)).cause])
        (flagsCleared p (x.setWidth 9) s) := by
  have set : BitVec.ofNat 9 x.toNat = x.setWidth 9 := by simp
  simp only [runClearFlags, numField_half, if_neg (Nat.not_le.mpr inside), set, flagsCleared, clearedFlags, flagSetBytes,
    BitVec.getLsbD_and, Bool.and_eq_true]

theorem flagsCleared_eq (p : Port) (set : BitVec 9) (s : State) :
    flagsCleared p set s = { s with attn := s.attn.set p ((flagsCleared p set s).attn.get p) } := by
  have same := followAttention_eq_set p (attnCondition s p) (s.setAttn p (clearedFlags set (s.attn.get p)))
  simpa [flagsCleared, State.setAttn] using same

theorem flagsCleared_outstanding (p : Port) (set : BitVec 9) (snap : Snapshot) (code seq : Byte) (payload : List Byte)
    (held : Bool) (s : State) :
    flagsCleared p set (outstanding p snap code seq payload held s) =
      outstanding p snap code seq payload held (flagsCleared p set s) := by
  simp [flagsCleared, outstanding, transacted]

end ClearFlags

/-- Settles O39: the set decides; what is cleared is followed by the answer of the line. -/
theorem clearFlagsClearsTheNamed : Obligations.ClearFlagsClearsTheNamed := by
  intro p snap s seq x ready
  rw [exec_clearFlags ready (toBytes_length 2 _)]
  refine ⟨fun outside => ?_, fun inside => ?_⟩
  · rw [runClearFlags_refused outside, complete_outstanding]
  · have answers : lineAnswers p s (flagsCleared p (x.setWidth 9) s) :=
      lineAnswers_followAttention rfl rfl (by simp [clearedFlags]) (by simp [clearedFlags])
    obtain ⟨outside, level, pulse⟩ := answers
    refine ⟨_, _, flagsCleared_eq p (x.setWidth 9) s, ?_, by simp [flagsCleared, clearedFlags],
      by simp [flagsCleared, clearedFlags, frameFlag], by simp [flagsCleared, clearedFlags],
      by simp [flagsCleared, clearedFlags], outside, level, fun main mode => (pulse main mode).2.2,
      fun main mode => (pulse main mode).2.1⟩
    rw [runClearFlags_taken inside, flagsCleared_outstanding, complete_outstanding]
    simp [flagsCleared, clearedFlags]

/-! ### SET_ATTENTION (R134) -/

section SetAttention
variable {p : Port} {s : State} {x : Half} {m : Byte}

/-- The mode that a defined mode byte names (R134). -/
def modeOf (m : Byte) : AttnMode := if m = 0x00 then .level else .pulse

theorem twoCodes_mode (m : Byte) :
    twoCodes m AttnMode.level .pulse = if m.toNat ≤ 1 then some (modeOf m) else none := by
  have zero : m = 0x00 ↔ m.toNat = 0 := BitVec.toNat_inj.symm
  have one : m = 0x01 ↔ m.toNat = 1 := BitVec.toNat_inj.symm
  simp only [twoCodes, modeOf, zero, one]
  rcases (by omega : m.toNat = 0 ∨ m.toNat = 1 ∨ 2 ≤ m.toNat) with is | is | is
  · simp [is]
  · simp [is]
  · rw [if_neg (by omega), if_neg (by omega), if_neg (by omega)]

theorem setAttention_fields (x : Half) (m : Byte) :
    numField (toBytes 2 x.toNat ++ [m]) 0 2 = x.toNat ∧ byteAt (toBytes 2 x.toNat ++ [m]) 2 = m :=
  ⟨numField_toBytes_append _ x.isLt, by simp [byteAt_append_right]⟩

theorem runSetAttention_refused (bad : 1024 ≤ x.toNat ∨ 1 < m.toNat) :
    runSetAttention p (toBytes 2 x.toNat ++ [m]) s = complete p .badValue [] s := by
  obtain ⟨set, mode⟩ := setAttention_fields x m
  by_cases defined : m.toNat ≤ 1
  · simp only [runSetAttention, set, mode, twoCodes_mode, if_pos defined, if_pos (bad.resolve_right (by omega))]
  · simp only [runSetAttention, mode, twoCodes_mode, if_neg defined]

/-- The ASU state of a port with other enables and another mode (R134). -/
def configured (enables : BitVec 10) (mode : AttnMode) (a : Attn) : Attn := { a with enables := enables, mode := mode }

/-- The line after SET_ATTENTION in MAIN (R134). -/
def reconfiguredAttn (p : Port) (enables : BitVec 10) (mode : AttnMode) (s : State) : Attn :=
  reconfiguredLine s.tbu.mono (s.attn.get p).mode (attnCondition s p)
    (attnCondition (s.setAttn p (configured enables mode (s.attn.get p))) p) (configured enables mode (s.attn.get p))

/-- The state after SET_ATTENTION in MAIN (R134). -/
def reconfigured (p : Port) (enables : BitVec 10) (mode : AttnMode) (s : State) : State :=
  { s with attn := s.attn.set p (reconfiguredAttn p enables mode s) }

theorem runSetAttention_taken (set : x.toNat < 1024) (mode : m.toNat ≤ 1) (main : s.spm.supply = .main) :
    runSetAttention p (toBytes 2 x.toNat ++ [m]) s =
      complete p .ok
        (toBytes 2 (s.attn.get p).enables.toNat ++
          [attnModeCode (s.attn.get p).mode,
            boolCode (attnCondition (s.setAttn p (configured (x.setWidth 10) (modeOf m) (s.attn.get p))) p)])
        (reconfigured p (x.setWidth 10) (modeOf m) s) := by
  obtain ⟨number, code⟩ := setAttention_fields x m
  have enables : BitVec.ofNat 10 x.toNat = x.setWidth 10 := by simp
  simp only [runSetAttention, number, code, twoCodes_mode, if_pos mode, if_neg (Nat.not_le.mpr set), enables,
    (inMain_iff s).mpr main, if_true, sourceSetBytes, reconfigured, reconfiguredAttn, configured, State.setAttn,
    PerPort.get_set_self, PerPort.set_set]

theorem reconfiguredLine_setup (mono : Mono) (modeBefore : AttnMode) (before after : Bool) (a : Attn) :
    sameSetup (reconfiguredLine mono modeBefore before after a) a := by
  cases modeBefore <;> cases mode : a.mode <;> cases before <;> cases after <;>
    simp [reconfiguredLine, mode, sameSetup, levelLine, startedPulse, releasedLine]

theorem reconfiguredAttn_setup (p : Port) (enables : BitVec 10) (mode : AttnMode) (s : State) :
    sameSetup (reconfiguredAttn p enables mode s) (configured enables mode (s.attn.get p)) :=
  reconfiguredLine_setup _ _ _ _ _

/-- The condition after the event is formed with the new enables (R134). -/
theorem attnCondition_reconfigured (p : Port) (enables : BitVec 10) (mode : AttnMode) (s : State) :
    attnCondition (reconfigured p enables mode s) p =
      attnCondition (s.setAttn p (configured enables mode (s.attn.get p))) p := by
  obtain ⟨flags, -, same, -⟩ := reconfiguredAttn_setup p enables mode s
  exact attnCondition_congr (by simpa [reconfigured] using flags) (by simpa [reconfigured] using same)
    (by simp [noticeSource, reconfigured])

/-- The line reads the condition of the port as SET_ATTENTION leaves it (R134). -/
theorem reconfiguredAttn_eq (p : Port) (enables : BitVec 10) (mode : AttnMode) (s : State) :
    reconfiguredAttn p enables mode s =
      reconfiguredLine s.tbu.mono (s.attn.get p).mode (attnCondition s p)
        (attnCondition (reconfigured p enables mode s) p) (configured enables mode (s.attn.get p)) := by
  rw [attnCondition_reconfigured]
  rfl

section Table
variable {a : Attn} (mono : Mono) (modeBefore : AttnMode)

theorem reconfiguredLine_level (before after : Bool) (mode : a.mode = .level) :
    reconfiguredLine mono modeBefore before after a = levelLine after a := by
  cases modeBefore <;> simp [reconfiguredLine, mode]

theorem reconfiguredLine_rise (mode : a.mode = .pulse) :
    reconfiguredLine mono modeBefore false true a = startedPulse mono a := by
  cases modeBefore <;> simp [reconfiguredLine, mode]

theorem reconfiguredLine_steady_level (mode : a.mode = .pulse) :
    reconfiguredLine mono .level true true a = releasedLine a := by
  simp [reconfiguredLine, mode]

theorem reconfiguredLine_steady_pulse (mode : a.mode = .pulse) : reconfiguredLine mono .pulse true true a = a := by
  simp [reconfiguredLine, mode]

theorem reconfiguredLine_off (before : Bool) (mode : a.mode = .pulse) :
    reconfiguredLine mono modeBefore before false a = releasedLine a := by
  cases modeBefore <;> simp [reconfiguredLine, mode]

end Table

theorem reconfigured_outstanding (p : Port) (enables : BitVec 10) (mode : AttnMode) (snap : Snapshot) (code seq : Byte)
    (payload : List Byte) (held : Bool) (s : State) :
    reconfigured p enables mode (outstanding p snap code seq payload held s) =
      outstanding p snap code seq payload held (reconfigured p enables mode s) := by
  simp [reconfigured, reconfiguredAttn, outstanding, transacted, State.setPort]
  rfl

end SetAttention

/-- Settles O40: set and mode decide; the line is read off the table of R134. -/
theorem setAttentionReplacesTheSetup : Obligations.SetAttentionReplacesTheSetup := by
  intro p snap s seq x m ready main
  rw [exec_setAttention ready (by simp)]
  refine ⟨fun bad => ?_, fun set mode => ?_⟩
  · rw [runSetAttention_refused bad, complete_outstanding]
  · obtain ⟨flags, cause, enables, newMode⟩ := reconfiguredAttn_setup p (x.setWidth 10) (modeOf m) s
    refine ⟨reconfiguredAttn p (x.setWidth 10) (modeOf m) s, reconfigured p (x.setWidth 10) (modeOf m) s, rfl, ?_, flags,
      cause, enables, newMode, ?_⟩
    · rw [runSetAttention_taken set mode (by simpa using main), reconfigured_outstanding, complete_outstanding,
        attnCondition_reconfigured]
      rfl
    · rw [newMode, reconfiguredAttn_eq]
      refine ⟨fun level => ?_, fun pulse before after => ?_, fun pulse modeBefore before after => ?_,
        fun pulse modeBefore before after => ?_, fun pulse off => ?_⟩
      · rw [reconfiguredLine_level _ _ _ _ level]
        cases attnCondition (reconfigured p (x.setWidth 10) (modeOf m) s) p <;> simp [levelLine]
      · rw [before, after, reconfiguredLine_rise _ _ pulse]
        exact ⟨rfl, rfl⟩
      · rw [modeBefore, before, after, reconfiguredLine_steady_level _ pulse]
        exact ⟨rfl, rfl⟩
      · rw [modeBefore, before, after, reconfiguredLine_steady_pulse _ pulse]
        exact ⟨rfl, rfl⟩
      · rw [off, reconfiguredLine_off _ _ _ pulse]
        exact ⟨rfl, rfl⟩

end Sys2Proof.Machine
end

section
/-! PROOFS. What the records sent to a host hold: READ_CALENDAR (R23), the notice record (R98) and the entry record (R53),
each at the offsets of 10.4 and 10.6. -/

-- One proof after the other: the memory limit of the check bounds the threads of Lean.
set_option Elab.async false

namespace Sys2Proof.Machine

/-! ### Timeline values as bytes -/

@[simp] theorem timeBytes_length (t : Time) : (timeBytes t).length = 6 := by simp [timeBytes]

/-- A timeline value at the front of a field is read back (R198). -/
theorem timeField_timeBytes_append (t : Time) (k : List Byte) : timeField (timeBytes t ++ k) 0 = some t := by
  have seconds : numField (timeBytes t ++ k) 0 4 = secondsOf t := by
    rw [timeBytes, List.append_assoc, numField_toBytes_append _ (secondsOf_lt t)]
  have ticks : numField (timeBytes t ++ k) 4 2 = ticksOf t := by
    rw [timeBytes, List.append_assoc, numField_append_right (by simp), toBytes_length,
      numField_toBytes_append _ ((ticksOf_lt t).trans (by decide))]
  have small := ticksOf_lt t
  have whole : secondsOf t * 4096 + ticksOf t = t.toNat := by
    simp only [secondsOf, ticksOf]
    omega
  simp only [timeField, seconds, ticks, whole]
  rw [if_pos (by omega), timeOf, BitVec.ofNat_toNat, BitVec.setWidth_eq]

theorem timeField_append_right {l k : List Byte} {o : Nat} (h : l.length ≤ o) :
    timeField (l ++ k) o = timeField k (o - l.length) := by
  have shift : o + 4 - l.length = o - l.length + 4 := by omega
  simp only [timeField, numField_append_right h, numField_append_right (show l.length ≤ o + 4 by omega), shift]

theorem timeField_cons_succ (x : Byte) (l : List Byte) (o : Nat) : timeField (x :: l) (o + 1) = timeField l o := rfl

/-- A half word at the front of a field is read back (R198). -/
theorem numField_half_append (x : Half) (k : List Byte) : numField (toBytes 2 x.toNat ++ k) 0 2 = x.toNat :=
  numField_toBytes_append k x.isLt

/-! ### READ_CALENDAR (R23) -/

/-- The response payload of READ_CALENDAR (R23, 10.4). -/
def readCalendarBytes (t : Time) (v : Validity) : List Byte :=
  toBytes 2 (calendarView t).date.year ++
    ([BitVec.ofNat 8 (calendarView t).date.month, BitVec.ofNat 8 (calendarView t).date.day,
      BitVec.ofNat 8 (calendarView t).weekday, BitVec.ofNat 8 (calendarView t).hour,
      BitVec.ofNat 8 (calendarView t).minute, BitVec.ofNat 8 (calendarView t).second] ++
      (toBytes 2 (ticksOf t) ++ [validityCode v]))

theorem runReadCalendar_eq (p : Port) (s : State) :
    runReadCalendar p s = complete p .ok (readCalendarBytes s.tbu.timeline s.tbu.validity) s := by
  simp [runReadCalendar, readCalendarBytes]

/-- The fields of the calendar view fit their bytes (R7, R8). -/
theorem calendarView_lt (t : Time) :
    (calendarView t).date.year < 256 ^ 2 ∧ (calendarView t).date.month < 256 ∧ (calendarView t).date.day < 256 ∧
      (calendarView t).weekday < 256 ∧ (calendarView t).hour < 256 ∧ (calendarView t).minute < 256 ∧
      (calendarView t).second < 256 := by
  obtain ⟨⟨year, month, day⟩, -, -⟩ := dateOf_spec (dayNumber_le t)
  have days : monthDays (dateOf (secondsOf t / 86400)).year (dateOf (secondsOf t / 86400)).month ≤ 31 := by
    unfold monthDays
    split <;> try split
    all_goals decide
  simp only [calendarView, weekdayOf]
  omega

/-- Settles O11: the response is formed from one timeline value and read back field by field. -/
theorem readCalendarReportsTheDate : Obligations.ReadCalendarReportsTheDate := by
  intro p snap s seq ready
  have answer := exec_readCalendar (seq := seq) ready
  rw [runReadCalendar_eq, complete_outstanding, (outstanding_frame ..).1] at answer
  obtain ⟨year, month, day, weekday, hour, minute, second⟩ := calendarView_lt s.tbu.timeline
  have ticks : ticksOf s.tbu.timeline < 256 ^ 2 := (ticksOf_lt _).trans (by decide)
  refine ⟨_, answer, by simp [readCalendarBytes], ?_⟩
  simp [readCalendarBytes, fun k => numField_toBytes_append k year, fun k => numField_toBytes_append k ticks,
    numField_append_right, numField_cons_succ, byteAt_append_right, Nat.mod_eq_of_lt, month, day, weekday, hour, minute,
    second]

/-! ### The notice record (R98) -/

/-- The reason and the marks stand in byte 3 of a notice record, each at its own bits (10.6). -/
theorem reasonMarksByte_toNat (r : Report) :
    (reasonMarksByte r).toNat =
      (match r.reason with
        | .fired => 0
        | .skipped => 64
        | .exhausted => 128) +
        (if r.marks.saturated then 4 else 0) + (if r.marks.strobeSuppressed then 2 else 0) +
        (if r.marks.holdover then 1 else 0) := by
  unfold reasonMarksByte
  cases r.reason <;> cases r.marks.saturated <;> cases r.marks.strobeSuppressed <;> cases r.marks.holdover <;> rfl

/-- The fields of a notice record (10.6). -/
theorem noticeBytes_fields (n : Notice) :
    (noticeBytes n).length = 24 ∧ numField (noticeBytes n) 0 2 = n.seq.toNat ∧
      (byteAt (noticeBytes n) 2).toNat = n.handle.val ∧ byteAt (noticeBytes n) 3 = reasonMarksByte n.report ∧
      numField (noticeBytes n) 4 2 = n.tag.toNat ∧ numField (noticeBytes n) 6 2 = n.report.fires.toNat ∧
      numField (noticeBytes n) 8 2 = n.report.late.toNat ∧ numField (noticeBytes n) 10 2 = n.report.missed.toNat ∧
      timeField (noticeBytes n) 12 = some n.report.first ∧ timeField (noticeBytes n) 18 = some n.report.last := by
  have handle : n.handle.val < 256 := n.handle.isLt.trans (by decide)
  have last : timeField (timeBytes n.report.last) 0 = some n.report.last := by
    simpa using timeField_timeBytes_append n.report.last []
  simp [noticeBytes, numField_half_append, numField_append_right, numField_cons_succ, byteAt_append_right,
    timeField_append_right, timeField_cons_succ, timeField_timeBytes_append, last,
    Nat.mod_eq_of_lt handle]

/-- The queue of a port after its first notices were returned and marked DELIVERED (R98). -/
def afterTaken (max : Nat) (l : List Notice) : List Notice :=
  (l.take max).map (fun n => { n with delivered := true }) ++ l.drop max

theorem afterTaken_length (max : Nat) (l : List Notice) : (afterTaken max l).length = l.length := by
  simp [afterTaken]
  omega

theorem runTakeNotices_refused {p : Port} {s : State} {max : Byte} (bad : max = 0 ∨ 8 < max.toNat) :
    runTakeNotices p [max] s = complete p .badValue [] s := by
  have outside : max.toNat = 0 ∨ 8 < max.toNat := bad.imp_left (fun zero => by rw [zero]; rfl)
  rw [runTakeNotices]
  exact if_pos outside

theorem runTakeNotices_taken {p : Port} {s : State} {max : Byte} (lo : 1 ≤ max.toNat) (hi : max.toNat ≤ 8) :
    runTakeNotices p [max] s =
      complete p .ok
        ([BitVec.ofNat 8 (min max.toNat (s.queues.get p).notices.length)] ++
          (((s.queues.get p).notices.take max.toNat).map noticeBytes).flatten ++
          [BitVec.ofNat 8 (s.queues.get p).notices.length,
            BitVec.ofNat 8 ((afterTaken max.toNat (s.queues.get p).notices).countP fun n => !n.delivered)])
        (replaceQueue p { s.queues.get p with notices := afterTaken max.toNat (s.queues.get p).notices } s) := by
  have inside : ¬ (max.toNat = 0 ∨ 8 < max.toNat) := by omega
  have length := afterTaken_length max.toNat (s.queues.get p).notices
  simp only [afterTaken] at length
  rw [runTakeNotices]
  refine (if_neg inside).trans ?_
  simp only [byteAt_cons_zero, afterTaken, List.length_take, undeliveredCount, length]

theorem replaceQueue_outstanding (p q : Port) (snap : Snapshot) (code seq : Byte) (payload : List Byte) (held : Bool)
    (x : NoticeQueue) (s : State) :
    replaceQueue q x (outstanding p snap code seq payload held s) =
      outstanding p snap code seq payload held (replaceQueue q x s) := by
  simp [outstanding, transacted]

/-- Settles O32: the range of max decides; the record of a notice is read back field by field. -/
theorem takeNoticesDeliversTheFront : Obligations.TakeNoticesDeliversTheFront := by
  refine ⟨fun p snap s seq max ready => ⟨fun bad => ?_, fun lo hi => ⟨_, rfl, ?_⟩⟩, fun n => ?_⟩
  · rw [exec_takeNotices ready rfl, runTakeNotices_refused bad, complete_outstanding]
  · rw [exec_takeNotices ready rfl, runTakeNotices_taken lo hi, (outstanding_frame ..).2.2.2.1, replaceQueue_outstanding,
      complete_outstanding]
    rfl
  · obtain ⟨length, seq, handle, marks, fields⟩ := noticeBytes_fields n
    refine ⟨length, seq, handle, ?_, fields⟩
    rw [marks]
    exact reasonMarksByte_toNat n.report

end Sys2Proof.Machine
end

section
/-! PROOFS. CANCEL_ENTRY, QUERY_ENTRY and LIST_OWN while RUNNING (R50 to R54). -/

-- One proof after the other: the memory limit of the check bounds the threads of Lean.
set_option Elab.async false

namespace Sys2Proof.Machine

/-! ### The entry that a byte names (R50, R53) -/

section Named
variable {s : State} {x : Byte} {h : Handle} {e : Entry}

theorem handleOf_iff : handleOf x = some h ↔ x.toNat = h.val := by
  unfold handleOf
  split_ifs with small
  · simp [Fin.ext_iff]
  · exact ⟨fun none_some => by simp at none_some, fun same => absurd (same ▸ h.isLt) small⟩

theorem entryNamed_iff : entryNamed s x = some (h, e) ↔ x.toNat = h.val ∧ slot s h = some e := by
  simp only [entryNamed, Option.bind_eq_some_iff, Option.map_eq_some_iff, Prod.mk.injEq, handleOf_iff]
  constructor
  · rintro ⟨g, number, e', at_g, rfl, rfl⟩
    exact ⟨number, at_g⟩
  · rintro ⟨number, at_h⟩
    exact ⟨h, number, e, at_h, rfl, rfl⟩

theorem entryNamed_outstanding (p : Port) (snap : Snapshot) (code seq : Byte) (payload : List Byte) (held : Bool)
    (s : State) (x : Byte) : entryNamed (outstanding p snap code seq payload held s) x = entryNamed s x := by
  simp [entryNamed]

/-- The byte of a handle names it. -/
theorem handleByte_toNat (h : Handle) : (BitVec.ofNat 8 h.val : Byte).toNat = h.val := by
  have small := h.isLt
  rw [BitVec.toNat_ofNat]
  omega

theorem entryNamed_handle (at_h : slot s h = some e) : entryNamed s (BitVec.ofNat 8 h.val) = some (h, e) :=
  entryNamed_iff.mpr ⟨handleByte_toNat h, at_h⟩

end Named

/-! ### CANCEL_ENTRY (R50 to R52) -/

section Cancel
variable {p : Port} {s : State} {x : Byte} {h : Handle} {e : Entry}

theorem runCancelEntry_refused (refused : ∀ h e, entryNamed s x = some (h, e) → e.owner ≠ p) :
    runCancelEntry p [x] s = complete p .badHandle [] s := by
  cases named : entryNamed s x with
  | none => simp [runCancelEntry, named]
  | some y => simp [runCancelEntry, named, refused y.1 y.2 named]

theorem runCancelEntry_ended (named : entryNamed s x = some (h, e)) (own : e.owner = p) (ended : isEnded e = true) :
    runCancelEntry p [x] s = complete p .ok [0x02, 0x01] s := by
  simp [runCancelEntry, named, own, ended]

/-- Cancelling an ARMED entry ends it CANCELLED, and frees its slot where nothing refers to it (R51). -/
def cancelled (h : Handle) (s : State) : State := releaseIfDone h (endEntry h .cancelled s)

theorem runCancelEntry_armed (named : entryNamed s x = some (h, e)) (own : e.owner = p) (armed : isEnded e = false) :
    runCancelEntry p [x] s =
      complete p .ok [0x01, if isFree (cancelled h s) h then 0x00 else 0x01] (cancelled h s) := by
  simp only [runCancelEntry, byteAt_cons_zero, named]
  rw [if_neg (not_not_intro own), if_neg (by simp [armed])]
  rfl

/-- An entry that ends leaves the agenda (R47, R59). -/
theorem endEntry_eq (at_h : slot s h = some e) (cause : EndCause) :
    endEntry h cause s =
      { s with agu := { s.agu with
        store := s.agu.store.set h.val (some { e with status := .ended cause }) h.isLt
        agenda := s.agu.agenda.filter fun g => g != h } } := by
  rw [endEntry, setStatus_of_slot at_h]
  rfl

theorem slot_endEntry (at_h : slot s h = some e) (cause : EndCause) :
    slot (endEntry h cause s) h = some { e with status := .ended cause } := by
  rw [endEntry, setStatus_of_slot at_h]
  simp

theorem cancelled_kept (at_h : slot s h = some e) (reference : hasReference s h e = true) :
    cancelled h s = endEntry h .cancelled s :=
  releaseIfDone_of_kept (slot_endEntry at_h _)
    (.inr ((hasReference_of_parts (s := s) (e := e) (by simp [endEntry]) rfl rfl rfl).trans reference))

theorem cancelled_alone (at_h : slot s h = some e) (alone : hasReference s h e = false) :
    cancelled h s = putSlot h none (endEntry h .cancelled s) :=
  releaseIfDone_of_done (slot_endEntry at_h _) rfl
    ((hasReference_of_parts (s := s) (e := e) (by simp [endEntry]) rfl rfl rfl).trans alone)

theorem cancelled_freed (at_h : slot s h = some e) (alone : hasReference s h e = false) :
    cancelled h s =
      { s with agu := { s.agu with
        store := s.agu.store.set h.val none h.isLt
        agenda := s.agu.agenda.filter fun g => g != h } } := by
  rw [cancelled_alone at_h alone, endEntry_eq at_h]
  simp [putSlot, State.setAgu]

theorem cancelled_outstanding (p : Port) (snap : Snapshot) (code seq : Byte) (payload : List Byte) (held : Bool)
    (h : Handle) (s : State) :
    cancelled h (outstanding p snap code seq payload held s) =
      outstanding p snap code seq payload held (cancelled h s) := by
  simp [cancelled, endEntry, outstanding, transacted]

end Cancel

theorem isEnded_of_status {e : Entry} {cause : EndCause} (ended : e.status = .ended cause) : isEnded e = true := by
  simp [isEnded, dueOf, ended]

theorem isEnded_of_armed {e : Entry} {due : Time} (armed : e.status = .armed due) : isEnded e = false := by
  simp [isEnded, dueOf, armed]

/-- A ready port has CANCEL_ENTRY taken at once while RUNNING (R82). -/
theorem exec_cancelEntry_running {p : Port} {snap : Snapshot} {s : State} {seq x : Byte} (ready : Ready p snap s)
    (running : isRunning s = true) :
    exec (.cancelEntry p seq [x]) s = .next (runCancelEntry p [x] (outstanding p snap 0x21 seq [x] false s)) := by
  rw [exec_cancelEntry ready rfl, handToAgenda_of_running (by simpa using running), runAgendaCommand]

/-- Settles O23: by the slot that the handle names, its owner, its state and its references. -/
theorem cancelEndsTheEntry : Obligations.CancelEndsTheEntry := by
  intro p snap s seq ready running
  refine ⟨fun x refused => ?_, fun h e at_h own => ⟨fun cause ended => ?_, fun due armed reference => ?_,
    fun due armed alone => ?_⟩⟩
  · rw [exec_cancelEntry_running ready running, runCancelEntry_refused, complete_outstanding]
    intro h e named
    obtain ⟨number, at_h⟩ := entryNamed_iff.mp ((entryNamed_outstanding ..).symm.trans named)
    exact refused h e number at_h
  · rw [exec_cancelEntry_running ready running, runCancelEntry_ended (h := h) (e := e)
      ((entryNamed_outstanding ..).trans (entryNamed_handle at_h)) own (isEnded_of_status ended), complete_outstanding]
  · have kept : slot (cancelled h s) h = some { e with status := .ended .cancelled } := by
      rw [cancelled_kept at_h reference]
      exact slot_endEntry at_h _
    rw [exec_cancelEntry_running ready running, runCancelEntry_armed (h := h) (e := e)
      ((entryNamed_outstanding ..).trans (entryNamed_handle at_h)) own (isEnded_of_armed armed), cancelled_outstanding,
      complete_outstanding, isFree, (outstanding_views ..).1, kept, cancelled_kept at_h reference, endEntry_eq at_h]
    rfl
  · have free : slot (cancelled h s) h = none := by
      rw [cancelled_alone at_h alone]
      simp
    rw [exec_cancelEntry_running ready running, runCancelEntry_armed (h := h) (e := e)
      ((entryNamed_outstanding ..).trans (entryNamed_handle at_h)) own (isEnded_of_armed armed), cancelled_outstanding,
      complete_outstanding, isFree, (outstanding_views ..).1, free, cancelled_freed at_h alone]
    rfl

/-! ### LIST_OWN (R54) -/

theorem exec_listOwn_running {p : Port} {snap : Snapshot} {s : State} {seq : Byte} (ready : Ready p snap s)
    (running : isRunning s = true) :
    exec (.listOwn p seq []) s = .next (runListOwn p (outstanding p snap 0x23 seq [] false s)) := by
  rw [exec_listOwn ready, handToAgenda_of_running (by simpa using running), runAgendaCommand]

section ListOwn
variable {s : State} {p : Port} {h : Handle}

theorem mem_armedHandles (order : AgendaInOrder s) :
    h ∈ armedHandles s p ↔ ∃ e due, slot s h = some e ∧ e.owner = p ∧ e.status = .armed due := by
  obtain ⟨-, members, -⟩ := order
  rw [armedHandles, List.mem_filter, members, ownedBy_iff]
  constructor
  · rintro ⟨⟨e, due, at_h, armed⟩, e', at_h', own⟩
    obtain rfl : e = e' := Option.some.inj (at_h.symm.trans at_h')
    exact ⟨e, due, at_h, own, armed⟩
  · rintro ⟨e, due, at_h, own, armed⟩
    exact ⟨⟨e, due, at_h, armed⟩, e, at_h, own⟩

/-- The port owns the slot, and its entry is ENDED. -/
def ownsEnded (s : State) (p : Port) (h : Handle) : Bool := (slot s h).any fun e => e.owner == p && isEnded e

/-- The port owns the slot, and its entry is ARMED. -/
def ownsArmed (s : State) (p : Port) (h : Handle) : Bool := (slot s h).any fun e => e.owner == p && !isEnded e

theorem ownsEnded_iff : ownsEnded s p h = true ↔ ∃ e cause, slot s h = some e ∧ e.owner = p ∧ e.status = .ended cause := by
  cases at_h : slot s h with
  | none => simp [ownsEnded, at_h]
  | some e => cases status : e.status <;> simp [ownsEnded, at_h, isEnded, dueOf, status]

theorem ownsArmed_iff : ownsArmed s p h = true ↔ ∃ e due, slot s h = some e ∧ e.owner = p ∧ e.status = .armed due := by
  cases at_h : slot s h with
  | none => simp [ownsArmed, at_h]
  | some e => cases status : e.status <;> simp [ownsArmed, at_h, isEnded, dueOf, status]

/-- An owned slot holds an ARMED or an ENDED entry (R28). -/
theorem ownedBy_split : ownedBy s p h = (ownsArmed s p h || ownsEnded s p h) ∧ (ownsArmed s p h && ownsEnded s p h) = false := by
  cases at_h : slot s h with
  | none => simp [ownedBy, ownsArmed, ownsEnded, at_h]
  | some e => cases ended : isEnded e <;> simp [ownedBy, ownsArmed, ownsEnded, at_h, ended]

theorem countP_or_of_disjoint {α : Type} {f g : α → Bool} (apart : ∀ x, (f x && g x) = false) (l : List α) :
    l.countP (fun x => f x || g x) = l.countP f + l.countP g := by
  induction l with
  | nil => rfl
  | cons x l ih =>
    have one := apart x
    cases fx : f x <;> cases gx : g x <;> simp_all <;> omega

/-- The ARMED handles of a port are as many as its slots with ARMED entries (R54, R59). -/
theorem armedHandles_length (order : AgendaInOrder s) : (armedHandles s p).length = allHandles.countP (ownsArmed s p) := by
  have ⟨nodup, _, _⟩ := order
  rw [List.countP_eq_length_filter]
  refine List.Perm.length_eq ((List.perm_ext_iff_of_nodup (nodup.filter _) (allHandles_nodup.filter _)).mpr fun h => ?_)
  rw [List.mem_filter (p := ownsArmed s p), ownsArmed_iff, ← mem_armedHandles order]
  exact ⟨fun mem => ⟨mem_allHandles h, mem⟩, fun mem => mem.2⟩

end ListOwn

/-- Settles O25: the two lists are filters of the agenda and of the handles in order; together they are the owned slots. -/
theorem listOwnReportsTheSlots : Obligations.ListOwnReportsTheSlots := by
  intro p snap s seq ready running order
  refine ⟨armedHandles s p, endedHandles s p, ?_, List.filter_sublist, ?_, fun h => mem_armedHandles order, fun h => ?_, ?_⟩
  · have armed : armedHandles (outstanding p snap 0x23 seq [] false s) p = armedHandles s p := rfl
    have ended : endedHandles (outstanding p snap 0x23 seq [] false s) p = endedHandles s p := rfl
    rw [exec_listOwn_running ready running, runListOwn, armed, ended, complete_outstanding]
  · exact (List.pairwise_lt_finRange 96).sublist List.filter_sublist
  · rw [endedHandles, List.mem_filter]
    exact ⟨fun mem => ownsEnded_iff.mp mem.2, fun mem => ⟨mem_allHandles h, ownsEnded_iff.mpr mem⟩⟩
  · have ended : (endedHandles s p).length = allHandles.countP (ownsEnded s p) := List.countP_eq_length_filter.symm
    have owned : ownedCount s p = allHandles.countP fun h => ownsArmed s p h || ownsEnded s p h :=
      List.countP_congr fun h _ => by rw [ownedBy_split.1]
    rw [armedHandles_length order, ended, owned, countP_or_of_disjoint fun h => ownedBy_split.2]

end Sys2Proof.Machine
end

section
/-! PROOFS. What QUERY_ENTRY reports (R53, 10.6). -/

-- One proof after the other: the memory limit of the check bounds the threads of Lean.
set_option Elab.async false

namespace Sys2Proof.Machine

/-! ### Fields within a part of a record -/

/-- A field that lies within the first of two parts. -/
theorem field_append_inside {l k : List Byte} {o n : Nat} (h : o + n ≤ l.length) : field (l ++ k) o n = field l o n := by
  have front : o ≤ l.length := by omega
  rw [field, field, List.drop_append_of_le_length front, List.take_append_of_le_length (by simp; omega)]

@[simp] theorem absentBytes_length (n : Nat) : (absentBytes n).length = n := List.length_replicate

@[simp] theorem absentBytes_append (n m : Nat) : absentBytes n ++ absentBytes m = absentBytes (n + m) :=
  List.replicate_append_replicate

@[simp] theorem patternBytes_length (pat : Pattern) : (patternBytes pat).length = 6 := by
  unfold patternBytes
  cases pat.day <;> rfl

/-! ### The parts of an entry record (10.6) -/

/-- The state byte of an entry record. -/
def statusByteOf (e : Entry) : Byte :=
  match e.status with
  | .armed _ => 0x01
  | .ended _ => 0x02

/-- The strobe bytes of an entry record. -/
def strobeBytesOf (e : Entry) : List Byte :=
  match e.strobe with
  | none => absentBytes 2
  | some a => [lineCode a.line, a.width]

/-- The due bytes of an entry record. -/
def dueBytesOf (e : Entry) : List Byte :=
  match e.status with
  | .armed due => timeBytes due
  | .ended _ => absentBytes 6

/-- The end-cause byte of an entry record. -/
def causeByteOf (e : Entry) : Byte :=
  match e.status with
  | .armed _ => 0xFF
  | .ended c => endCauseCode c

/-- The fires of the pending summary in an entry record. -/
def summaryBytesOf (e : Entry) : List Byte :=
  match e.summary with
  | none => absentBytes 2
  | some r => toBytes 2 r.fires.toNat

/-- The terminal byte of an entry record. -/
def terminalByteOf (e : Entry) : Byte :=
  match e.terminal with
  | none => 0xFF
  | some r => terminalCode r.reason

section Parts
variable (h : Handle) (e : Entry) (n : Nat)

theorem entryBytes_eq :
    entryBytes h e n =
      [BitVec.ofNat 8 h.val, portCode e.owner] ++ (toBytes 2 e.tag.toNat ++
        ([kindCode e.schedule.kind, referenceCode e.schedule.reference, policyCode e.policy, statusByteOf e,
          boolCode e.notify, boolCode e.persist] ++ (strobeBytesOf e ++ (dueBytesOf e ++ (scheduleBytes e ++
            ([causeByteOf e, BitVec.ofNat 8 n, boolCode e.summary.isSome] ++
              (summaryBytesOf e ++ [terminalByteOf e]))))))) := by
  simp only [entryBytes, List.append_assoc]
  rfl

@[simp] theorem strobeBytesOf_length : (strobeBytesOf e).length = 2 := by
  unfold strobeBytesOf
  cases e.strobe <;> rfl

@[simp] theorem dueBytesOf_length : (dueBytesOf e).length = 6 := by
  unfold dueBytesOf
  cases e.status <;> simp

@[simp] theorem summaryBytesOf_length : (summaryBytesOf e).length = 2 := by
  unfold summaryBytesOf
  cases e.summary <;> simp

@[simp] theorem scheduleBytes_length : (scheduleBytes e).length = 19 := by
  unfold scheduleBytes
  cases e.schedule <;> simp

/-- The bytes of an entry record that stand alone. -/
theorem entryBytes_codes :
    (entryBytes h e n).length = 43 ∧ byteAt (entryBytes h e n) 0 = BitVec.ofNat 8 h.val ∧
      byteAt (entryBytes h e n) 1 = portCode e.owner ∧ numField (entryBytes h e n) 2 2 = e.tag.toNat ∧
      byteAt (entryBytes h e n) 4 = kindCode e.schedule.kind ∧
      byteAt (entryBytes h e n) 5 = referenceCode e.schedule.reference ∧
      byteAt (entryBytes h e n) 6 = policyCode e.policy ∧ byteAt (entryBytes h e n) 7 = statusByteOf e ∧
      byteAt (entryBytes h e n) 8 = boolCode e.notify ∧ byteAt (entryBytes h e n) 9 = boolCode e.persist ∧
      byteAt (entryBytes h e n) 37 = causeByteOf e ∧ byteAt (entryBytes h e n) 38 = BitVec.ofNat 8 n ∧
      byteAt (entryBytes h e n) 39 = boolCode e.summary.isSome ∧ byteAt (entryBytes h e n) 42 = terminalByteOf e := by
  rw [entryBytes_eq]
  simp [numField_cons_succ, numField_half_append, byteAt_append_right]

/-- The fields of an entry record that its strobe action, its due and its summary fill. -/
theorem entryBytes_fields :
    field (entryBytes h e n) 10 2 = strobeBytesOf e ∧ byteAt (entryBytes h e n) 10 = byteAt (strobeBytesOf e) 0 ∧
      byteAt (entryBytes h e n) 11 = byteAt (strobeBytesOf e) 1 ∧ field (entryBytes h e n) 12 6 = dueBytesOf e ∧
      field (entryBytes h e n) 40 2 = summaryBytesOf e := by
  rw [entryBytes_eq]
  simp [field_cons_succ, field_append_right, field_append_left, byteAt_append_right, byteAt_append_left]

/-- The fields of an entry record that its schedule fills. -/
theorem entryBytes_schedule (o m : Nat) (inside : o + m ≤ 19) :
    field (entryBytes h e n) (18 + o) m = field (scheduleBytes e) o m := by
  have prefix_length : ([BitVec.ofNat 8 h.val, portCode e.owner] ++ (toBytes 2 e.tag.toNat ++
      ([kindCode e.schedule.kind, referenceCode e.schedule.reference, policyCode e.policy, statusByteOf e,
        boolCode e.notify, boolCode e.persist] ++ (strobeBytesOf e ++ dueBytesOf e)))).length = 18 := by simp
  rw [entryBytes_eq]
  simp only [← List.append_assoc] at prefix_length ⊢
  rw [field_append_inside (by simp; omega), field_append_inside (by simp; omega), field_append_inside (by simp; omega),
    ← prefix_length, field_drop]

end Parts

section Schedules
variable {e : Entry}

theorem scheduleBytes_oneShot (sch : e.schedule = .oneShotWall ∨ e.schedule = .oneShotElapsed) :
    field (scheduleBytes e) 0 17 = absentBytes 17 ∧ field (scheduleBytes e) 17 2 = absentBytes 2 := by
  rcases sch with sch | sch <;> simp only [scheduleBytes, sch] <;> exact ⟨rfl, rfl⟩

theorem scheduleBytes_periodicWall {per : BitVec 40} {anchor : Time} (sch : e.schedule = .periodicWall per anchor) :
    numField (scheduleBytes e) 0 5 = per.toNat ∧ field (scheduleBytes e) 5 6 = timeBytes anchor ∧
      field (scheduleBytes e) 11 6 = absentBytes 6 := by
  have fits : per.toNat < 256 ^ 5 := per.isLt
  simp [scheduleBytes, sch, fun k => numField_toBytes_append k fits, field_append_right, field_append_left]

theorem scheduleBytes_periodicElapsed {per : BitVec 40} (sch : e.schedule = .periodicElapsed per) :
    numField (scheduleBytes e) 0 5 = per.toNat ∧ field (scheduleBytes e) 5 12 = absentBytes 12 := by
  have fits : per.toNat < 256 ^ 5 := per.isLt
  simp [scheduleBytes, sch, fun k => numField_toBytes_append k fits, field_append_right,
    field_append_left (absentBytes_length 12)]

theorem scheduleBytes_calendar {pat : Pattern} (sch : e.schedule = .calendar pat) :
    field (scheduleBytes e) 0 11 = absentBytes 11 ∧ field (scheduleBytes e) 11 6 = patternBytes pat := by
  simp [scheduleBytes, sch, field_append_right, field_append_left]

theorem scheduleBytes_missed (kind : e.schedule.kind ≠ .oneShot) : numField (scheduleBytes e) 17 2 = e.missed.toNat := by
  have fits : numField (toBytes 2 e.missed.toNat) 0 2 = e.missed.toNat := numField_half e.missed
  cases sch : e.schedule <;> simp [sch, Schedule.kind] at kind <;>
    simp [scheduleBytes, sch, numField_append_right, fits]

end Schedules

/-- A timeline value is read back from its six bytes. -/
theorem timeField_of_field {l : List Byte} {o : Nat} {t : Time} (at_o : field l o 6 = timeBytes t) :
    timeField l o = some t := by
  have whole := timeField_timeBytes_append t []
  have seconds : numField l o 4 = numField (timeBytes t ++ []) 0 4 := by
    rw [List.append_nil, ← at_o, numField, numField, field, field, field, List.drop_zero, List.take_take]
    rfl
  have ticks : numField l (o + 4) 2 = numField (timeBytes t ++ []) 4 2 := by
    rw [List.append_nil, ← at_o, numField, numField, field, field, field, List.drop_take, List.take_take, List.drop_drop]
    rfl
  rw [timeField] at whole ⊢
  rw [seconds, ticks]
  exact whole

theorem exec_queryEntry_running {p : Port} {snap : Snapshot} {s : State} {seq x : Byte} (ready : Ready p snap s)
    (running : isRunning s = true) :
    exec (.queryEntry p seq [x]) s = .next (runQueryEntry p [x] (outstanding p snap 0x22 seq [x] false s)) := by
  rw [exec_queryEntry ready rfl, handToAgenda_of_running (by simpa using running), runAgendaCommand]

section Query
variable {p : Port} {s : State} {x : Byte} {h : Handle} {e : Entry}

theorem runQueryEntry_refused
    (refused : ∀ h e, entryNamed s x = some (h, e) → e.owner ≠ p ∧ (s.pru.profiles.get p).admin = false) :
    runQueryEntry p [x] s = complete p .badHandle [] s := by
  cases named : entryNamed s x with
  | none => simp [runQueryEntry, named]
  | some y => simp [runQueryEntry, named, refused y.1 y.2 named]

theorem runQueryEntry_open (named : entryNamed s x = some (h, e))
    (allowed : e.owner = p ∨ (s.pru.profiles.get p).admin = true) :
    runQueryEntry p [x] s = complete p .ok (entryBytes h e (noticesFor s e.owner h)) s := by
  have open_to : ¬ (e.owner ≠ p ∧ (s.pru.profiles.get p).admin = false) := by
    rintro ⟨other, plain⟩
    simp [other, plain] at allowed
  simp only [runQueryEntry, byteAt_cons_zero, named, if_neg open_to]

end Query

/-- Settles O24: the record is formed from its parts and read back part by part. -/
theorem queryReportsTheRecord : Obligations.QueryReportsTheRecord := by
  intro p snap s seq ready running
  refine ⟨fun x refused => ?_, fun h e at_h allowed => ⟨entryBytes h e (noticesFor s e.owner h), ?_, ?_⟩⟩
  · rw [exec_queryEntry_running ready running, runQueryEntry_refused, complete_outstanding]
    intro h e named
    obtain ⟨number, at_h⟩ := entryNamed_iff.mp ((entryNamed_outstanding ..).symm.trans named)
    simpa using refused h e number at_h
  · rw [exec_queryEntry_running ready running,
      runQueryEntry_open (h := h) (e := e) ((entryNamed_outstanding ..).trans (entryNamed_handle at_h))
        (by simpa using allowed), complete_outstanding]
    rfl
  · obtain ⟨length, handle, owner, tag, kind, reference, policy, status, notify, persist, cause, inQueue, summary,
      terminal⟩ := entryBytes_codes h e (noticesFor s e.owner h)
    obtain ⟨strobe, line, width, due, fires⟩ := entryBytes_fields h e (noticesFor s e.owner h)
    have schedule := entryBytes_schedule h e (noticesFor s e.owner h)
    refine ⟨length, by rw [handle, handleByte_toNat], owner, tag, kind, reference, policy, notify, persist, ?_, ?_, ?_, ?_,
      inQueue, summary, ?_, ?_⟩
    · cases action : e.strobe with
      | none => simpa [strobeBytesOf, action] using strobe
      | some a => exact ⟨by simpa [strobeBytesOf, action] using line, by simpa [strobeBytesOf, action] using width⟩
    · cases state : e.status with
      | armed d =>
        exact ⟨by simpa [statusByteOf, state] using status, timeField_of_field (by simpa [dueBytesOf, state] using due),
          by simpa [causeByteOf, state] using cause⟩
      | ended c =>
        exact ⟨by simpa [statusByteOf, state] using status, by simpa [dueBytesOf, state] using due,
          by simpa [causeByteOf, state] using cause⟩
    · have number : numField (entryBytes h e (noticesFor s e.owner h)) 18 5 = numField (scheduleBytes e) 0 5 :=
        congrArg ofBytes (schedule 0 5 (by omega))
      cases sch : e.schedule with
      | oneShotWall => exact (schedule 0 17 (by omega)).trans (scheduleBytes_oneShot (.inl sch)).1
      | oneShotElapsed => exact (schedule 0 17 (by omega)).trans (scheduleBytes_oneShot (.inr sch)).1
      | periodicWall per anchor =>
        obtain ⟨period, grid, unused⟩ := scheduleBytes_periodicWall sch
        exact ⟨number.trans period, timeField_of_field ((schedule 5 6 (by omega)).trans grid),
          (schedule 11 6 (by omega)).trans unused⟩
      | periodicElapsed per =>
        obtain ⟨period, unused⟩ := scheduleBytes_periodicElapsed sch
        exact ⟨number.trans period, (schedule 5 12 (by omega)).trans unused⟩
      | calendar pat =>
        obtain ⟨unused, pattern⟩ := scheduleBytes_calendar sch
        exact ⟨(schedule 0 11 (by omega)).trans unused, (schedule 11 6 (by omega)).trans pattern⟩
    · have missed := schedule 17 2 (by omega)
      split_ifs with kind
      · refine missed.trans (scheduleBytes_oneShot ?_).2
        cases sch : e.schedule <;> simp [sch, Schedule.kind] at kind ⊢
      · exact (congrArg ofBytes missed).trans (scheduleBytes_missed kind)
    · cases pending : e.summary with
      | none => simpa [summaryBytesOf, pending] using fires
      | some r =>
        simp only [numField]
        rw [fires, summaryBytesOf, pending]
        exact ofBytes_toBytes_of_lt r.fires.isLt
    · cases pending : e.terminal with
      | none => simpa [terminalByteOf, pending] using terminal
      | some r => simpa [terminalByteOf, pending] using terminal

end Sys2Proof.Machine
end

section
/-! PROOFS. CREATE_ENTRY while RUNNING: the first due, the checks of R44 in order, and the new entry (R29 to R45). -/

-- One proof after the other: the memory limit of the check bounds the threads of Lean.
set_option Elab.async false

namespace Sys2Proof.Machine

/-! ### Values in range and the grid of a PERIODIC WALL entry (R6, R33) -/

theorem le_lastTime (t : Time) : t.toNat ≤ lastTime.toNat := Nat.le_of_lt_succ t.isLt

/-- A count of ticks names the one value with this count, where it lies in the range (R4, R6). -/
theorem timeInRange_iff {n : Nat} {t : Time} : timeInRange n = some t ↔ t.toNat = n := by
  have last : lastTime.toNat = 17592186044415 := rfl
  have small := t.isLt
  unfold timeInRange timeOf
  split_ifs with inside
  · rw [Option.some.injEq, ← BitVec.toNat_inj, BitVec.toNat_ofNat]
    omega
  · simp only [false_iff]
    omega

theorem timeInRange_eq_none_iff {n : Nat} : timeInRange n = none ↔ lastTime.toNat < n := by
  simp [timeInRange]

/-- The grid point after a value is the least one strictly after it (R33). -/
theorem gridAfter_spec (anchor v : Nat) {period : Nat} (positive : 0 < period) :
    v < gridAfter anchor period v ∧ (∃ k, gridAfter anchor period v = anchor + k * period) ∧
      ∀ k, v < anchor + k * period → gridAfter anchor period v ≤ anchor + k * period := by
  unfold gridAfter
  split_ifs with before
  · exact ⟨before, ⟨0, by simp⟩, fun k _ => Nat.le_add_right _ _⟩
  · have whole := Nat.div_add_mod (v - anchor) period
    have rest := Nat.mod_lt (v - anchor) positive
    have product : ((v - anchor) / period + 1) * period = period * ((v - anchor) / period) + period := by ring
    refine ⟨by omega, ⟨_, rfl⟩, fun k after => ?_⟩
    have more : (v - anchor) / period < k := by
      by_contra few
      have bound : k * period ≤ (v - anchor) / period * period := Nat.mul_le_mul_right _ (by omega)
      have same : (v - anchor) / period * period = period * ((v - anchor) / period) := Nat.mul_comm _ _
      omega
    exact Nat.add_le_add_left (Nat.mul_le_mul_right _ more) _

/-! ### The first due (R31 to R34, R38) -/

theorem firstDue_periodicWall {now anchor : Time} {per : BitVec 40} (positive : 0 < per.toNat) :
    (∀ due, firstDue now (.periodicWall anchor per) = some due ↔
      now < due ∧ (∃ k, due.toNat = anchor.toNat + k * per.toNat) ∧
        ∀ k, now.toNat < anchor.toNat + k * per.toNat → due.toNat ≤ anchor.toNat + k * per.toNat) ∧
    (firstDue now (.periodicWall anchor per) = none ↔
      ∀ k, now.toNat < anchor.toNat + k * per.toNat → lastTime.toNat < anchor.toNat + k * per.toNat) := by
  obtain ⟨after, ⟨k, point⟩, least⟩ := gridAfter_spec anchor.toNat now.toNat positive
  refine ⟨fun due => timeInRange_iff.trans ⟨fun same => ?_, ?_⟩, timeInRange_eq_none_iff.trans ⟨fun past j later => ?_, ?_⟩⟩
  · exact ⟨BitVec.lt_def.mpr (by omega), ⟨k, by omega⟩, fun j later => same.trans_le (least j later)⟩
  · rintro ⟨later, ⟨j, grid⟩, smallest⟩
    have lower := least j (by rw [← grid]; exact BitVec.lt_def.mp later)
    have upper := smallest k (by omega)
    omega
  · exact past.trans_le (least j later)
  · intro none_inside
    rw [point]
    exact none_inside k (by omega)

/-! ### The free slot (R39) -/

theorem freeSlot_eq_some {s : State} {p : Port} {h : Handle} (free : slot s h = none)
    (inside : inWindow (s.pru.profiles.get p) h = true)
    (least : ∀ g, g < h → inWindow (s.pru.profiles.get p) g = true → slot s g ≠ none) : freeSlot s p = some h := by
  rw [freeSlot, List.find?_eq_some_iff_getElem]
  refine ⟨by simp [inside, isFree, free], h.val, by simp [allHandles], by simp [allHandles], fun j lower => ?_⟩
  have small : j < 96 := lower.trans h.isLt
  have at_j : allHandles[j]'(by simpa [allHandles] using small) = ⟨j, small⟩ := by simp [allHandles]
  rw [at_j]
  have taken := least ⟨j, small⟩ lower
  cases window : inWindow (s.pru.profiles.get p) ⟨j, small⟩ with
  | false => simp
  | true => simpa [isFree, Option.isSome_iff_ne_none] using taken window

theorem freeSlot_eq_none {s : State} {p : Port}
    (full : ∀ h, inWindow (s.pru.profiles.get p) h = true → slot s h ≠ none) : freeSlot s p = none := by
  rw [freeSlot, List.find?_eq_none]
  intro h _
  cases window : inWindow (s.pru.profiles.get p) h with
  | false => simp
  | true => simpa [isFree, Option.isSome_iff_ne_none] using full h window

/-! ### The checks of R44, in order -/

section Judge
variable {now : Time} {payload : List Byte} {c : CreateCodes} {tm : Timing} {due : Time}

theorem judgeCreate_of_no_codes (undefined : createCodes payload = none) : judgeCreate now payload = .error .badValue := by
  simp [judgeCreate, undefined]

theorem judgeCreate_of_bad (codes : createCodes payload = some c)
    (bad : createCombination c = false ∨ timingFields c.kind c.reference payload = none) :
    judgeCreate now payload = .error .badValue := by
  cases combination : createCombination c with
  | false => simp [judgeCreate, codes, combination]
  | true =>
    have fields := bad.resolve_left (by simp [combination])
    simp [judgeCreate, codes, combination, fields]

variable (codes : createCodes payload = some c) (combination : createCombination c = true)
  (fields : timingFields c.kind c.reference payload = some tm)
include codes combination fields

theorem judgeCreate_of_never {pat : Pattern} (calendar : tm = .calendar pat) (never : neverMatches pat = true) :
    judgeCreate now payload = .error .noMatch := by
  subst calendar
  simp [judgeCreate, codes, combination, fields, never]

theorem judgeCreate_of_past (oneShot : tm = .oneShotWall due) (past : due ≤ now) :
    judgeCreate now payload = .error .inPast := by
  subst oneShot
  simp [judgeCreate, codes, combination, fields, past]

theorem judgeCreate_of_no_due (no_due : firstDue now tm = none) : judgeCreate now payload = .error .noMatch := by
  cases tm with
  | oneShotWall d => simp [firstDue] at no_due
  | calendar pat => cases never : neverMatches pat <;> simp [judgeCreate, codes, combination, fields, never, no_due]
  | oneShotElapsed | periodicWall | periodicElapsed => simp [judgeCreate, codes, combination, fields, no_due]

theorem judgeCreate_of_due (possible : ∀ pat, tm = .calendar pat → neverMatches pat = false)
    (first : firstDue now tm = some due) (later : now < due) : judgeCreate now payload = .ok (c, tm, due) := by
  cases tm with
  | oneShotWall d =>
    obtain rfl : d = due := Option.some.inj first
    have ahead : ¬ d ≤ now := BitVec.not_le.mpr later
    simp [judgeCreate, codes, combination, fields, ahead]
  | calendar pat => simp [judgeCreate, codes, combination, fields, possible pat rfl, first]
  | oneShotElapsed | periodicWall | periodicElapsed => simp [judgeCreate, codes, combination, fields, first]

end Judge

/-! ### CREATE_ENTRY as the AGU takes it (R44, R45) -/

section Create
variable {p : Port} {s : State} {payload : List Byte}

theorem runCreateEntry_refused {r : Result} (judged : judgeCreate s.tbu.timeline payload = .error r) :
    runCreateEntry p payload s = complete p r [] s := by
  simp [runCreateEntry, judged]

variable {c : CreateCodes} {tm : Timing} {due : Time} (judged : judgeCreate s.tbu.timeline payload = .ok (c, tm, due))
include judged

theorem runCreateEntry_of_quota (full : (s.pru.profiles.get p).quota.toNat ≤ ownedCount s p) :
    runCreateEntry p payload s = complete p .quotaFull [] s := by
  simp [runCreateEntry, judged, full]

theorem runCreateEntry_of_no_slot (quota : ownedCount s p < (s.pru.profiles.get p).quota.toNat)
    (none_free : freeSlot s p = none) : runCreateEntry p payload s = complete p .noSlot [] s := by
  simp [runCreateEntry, judged, Nat.not_le.mpr quota, none_free]

theorem runCreateEntry_accepted (quota : ownedCount s p < (s.pru.profiles.get p).quota.toNat) {h : Handle}
    (free : freeSlot s p = some h) :
    runCreateEntry p payload s =
      complete p .ok ([BitVec.ofNat 8 h.val] ++ timeBytes due)
        (putSlot h (some (newEntry p (BitVec.ofNat 16 (numField payload 0 2)) c tm due)) s) := by
  simp [runCreateEntry, judged, Nat.not_le.mpr quota, free]

end Create

theorem freeSlot_outstanding (p : Port) (snap : Snapshot) (code seq : Byte) (payload : List Byte) (held : Bool) (q : Port)
    (s : State) : freeSlot (outstanding p snap code seq payload held s) q = freeSlot s q := by
  simp [freeSlot, isFree]

theorem putSlot_outstanding (p : Port) (snap : Snapshot) (code seq : Byte) (payload : List Byte) (held : Bool)
    (h : Handle) (x : Option Entry) (s : State) :
    putSlot h x (outstanding p snap code seq payload held s) = outstanding p snap code seq payload held (putSlot h x s) := by
  simp [outstanding, transacted]

section Running
variable {p : Port} {snap : Snapshot} {s : State} {seq : Byte} {payload : List Byte} (ready : Ready p snap s)
  (running : isRunning s = true) (length : payload.length = 25)
include ready running length

/-- A ready port has CREATE_ENTRY taken at once while RUNNING (R82). -/
theorem exec_createEntry_running :
    exec (.createEntry p seq payload) s = .next (runCreateEntry p payload (outstanding p snap 0x20 seq payload false s)) := by
  rw [exec_createEntry ready length, handToAgenda_of_running (by simpa using running), runAgendaCommand]

theorem exec_createEntry_refused {r : Result} (judged : judgeCreate s.tbu.timeline payload = .error r) :
    exec (.createEntry p seq payload) s = .next (answered p snap 0x20 seq payload r [] s) := by
  rw [exec_createEntry_running ready running length, runCreateEntry_refused (by simpa using judged), complete_outstanding]

end Running

/-- Settles O22: the checks one by one, each with those before it passed. -/
theorem createIsRefusedInOrder : Obligations.CreateIsRefusedInOrder := by
  intro p snap s seq payload ready running length
  refine ⟨fun undefined => exec_createEntry_refused ready running length (judgeCreate_of_no_codes undefined),
    fun c codes => ⟨fun bad => exec_createEntry_refused ready running length (judgeCreate_of_bad codes bad),
      fun tm combination fields => ⟨?_, fun due oneShot past => ?_, fun no_due => ?_, fun due first later possible =>
        ⟨fun full => ?_, fun quota full => ?_⟩⟩⟩⟩
  · rintro ⟨pat, calendar, never⟩
    exact exec_createEntry_refused ready running length (judgeCreate_of_never codes combination fields calendar never)
  · exact exec_createEntry_refused ready running length (judgeCreate_of_past codes combination fields oneShot past)
  · exact exec_createEntry_refused ready running length (judgeCreate_of_no_due codes combination fields no_due)
  · have judged := judgeCreate_of_due codes combination fields possible first later
    rw [exec_createEntry_running ready running length,
      runCreateEntry_of_quota (by simpa using judged) (by simpa using full), complete_outstanding]
  · have judged := judgeCreate_of_due codes combination fields possible first later
    rw [exec_createEntry_running ready running length,
      runCreateEntry_of_no_slot (by simpa using judged) (by simpa using quota)
        ((freeSlot_outstanding ..).trans (freeSlot_eq_none full)), complete_outstanding]

/-- Settles O21: past the checks the lowest FREE slot of the window takes the new entry; the first dues by their schedules. -/
theorem createIsAccepted : Obligations.CreateIsAccepted := by
  refine ⟨fun p snap s seq payload c tm due h ready running length codes combination fields possible first later quota free
    inside least => ?_, fun now => ⟨fun due => rfl, fun pat => rfl, fun anchor per positive =>
      firstDue_periodicWall positive, fun delay per due => ⟨timeInRange_iff, timeInRange_iff⟩⟩⟩
  have judged := judgeCreate_of_due codes combination fields possible first later
  refine ⟨putSlot h (some (newEntry p (BitVec.ofNat 16 (numField payload 0 2)) c tm due)) s, ?_, by simp [newEntry],
    fun g ne => by simp [ne], rfl⟩
  rw [exec_createEntry_running ready running length,
    runCreateEntry_accepted (by simpa using judged) (by simpa using quota)
      ((freeSlot_outstanding ..).trans (freeSlot_eq_some free inside least)), putSlot_outstanding, complete_outstanding]

end Sys2Proof.Machine
end

section
/-! PROOFS. The answers to unknown and mislengthed commands (R177), and the part after reset (R193). -/

-- One proof after the other: the memory limit of the check bounds the threads of Lean.
set_option Elab.async false

namespace Sys2Proof.Machine

/-! ### The 22 commands (R177) -/

/-- The codes of the table have the lengths of the table. -/
theorem payloadLength_of_row : ∀ x ∈ commandTable, payloadLength x.code = some x.length := by decide

/-- Any other code has none. -/
theorem payloadLength_of_unknown {code : Byte} (unknown : ∀ x ∈ commandTable, x.code ≠ code) :
    payloadLength code = none := by
  have codes : ∀ y ∈ commandTable.map (·.code), ¬ code = y := by
    intro y hy same
    obtain ⟨x, hx, rfl⟩ := List.mem_map.mp hy
    exact unknown x hx same.symm
  unfold payloadLength
  iterate 22
    rw [if_neg (codes _ (by decide))]

theorem payloadLength_iff (code : Byte) (n : Nat) :
    payloadLength code = some n ↔ ∃ x ∈ commandTable, x.code = code ∧ x.length = n := by
  constructor
  · intro known
    by_contra no_row
    push Not at no_row
    by_cases unknown : ∀ x ∈ commandTable, x.code ≠ code
    · simp [payloadLength_of_unknown unknown] at known
    · push Not at unknown
      obtain ⟨x, hx, rfl⟩ := unknown
      exact no_row x hx rfl (Option.some.inj ((payloadLength_of_row x hx).symm.trans known))
  · rintro ⟨x, hx, rfl, rfl⟩
    exact payloadLength_of_row x hx

/-- Each row of the table is the release after its REQUEST frame (R170). -/
theorem exec_commandRow {x : CommandRow} (row : x ∈ commandTable) (p : Port) (seq : Byte) (payload : List Byte) (s : State) :
    exec (x.row p seq payload) s = .next (sendRequest p x.code seq payload (takeDueLimits s)) := by
  simp only [commandTable, List.mem_cons, List.not_mem_nil, or_false] at row
  rcases row with rfl | rfl | rfl | rfl | rfl | rfl | rfl | rfl | rfl | rfl | rfl | rfl | rfl | rfl | rfl | rfl | rfl |
    rfl | rfl | rfl | rfl | rfl <;> rfl

section Misfit
variable {p : Port} {snap : Snapshot} {s : State} {payload : List Byte} (seq : Byte) {code : Byte}
  (ready : Ready p snap s) (fits : payload.length ≤ 48)
include ready fits

theorem sendRequest_of_unknown (unknown : payloadLength code = none) :
    sendRequest p code seq payload (takeDueLimits s) = answered p snap code seq payload .unknownCommand [] s := by
  rw [sendRequest_of_ready code seq ready fits, judgeCommand, unknown]
  exact complete_outstanding ..

theorem sendRequest_of_mislengthed {n : Nat} (known : payloadLength code = some n) (length : payload.length ≠ n) :
    sendRequest p code seq payload (takeDueLimits s) = answered p snap code seq payload .badLength [] s := by
  rw [sendRequest_of_ready code seq ready fits, judgeCommand, known]
  simp only [if_neg length, complete_outstanding]

end Misfit

/-- Settles O52: the code table, and the two answers of the judgement before the hand-over. -/
theorem unknownAndMislengthedAreAnswered : Obligations.UnknownAndMislengthedAreAnswered := by
  refine ⟨payloadLength_iff, fun p snap s seq payload ready fits => ⟨fun code unknown => ?_, fun x row length => ?_⟩⟩
  · exact congrArg Host.Outcome.next (sendRequest_of_unknown seq ready fits (payloadLength_of_unknown unknown))
  · have answer := sendRequest_of_mislengthed seq ready fits (payloadLength_of_row x row) length
    exact ⟨(exec_commandRow row p seq payload s).trans (congrArg _ answer), congrArg Host.Outcome.next answer⟩

/-! ### A part with nothing in it -/

/-- Every slot is FREE, every queue empty, every strobe line IDLE, and nobody holds the lease (R24, R55, R105, R126, R146). -/
structure Blank (s : State) : Prop where
  agu : s.agu = .empty
  queues : s.queues = .const ⟨[], 0⟩
  strobes : s.strobes = .const .idle
  lease : s.lease = none

section Blank
variable {s : State} (blank : Blank s)
include blank

theorem Blank.slot (h : Handle) : slot s h = none := by
  rw [Machine.slot, blank.agu]
  simp [Agu.empty, Vector.get]

theorem Blank.walkOf : walkOf s = none := by
  rw [Machine.walkOf, blank.agu]
  rfl

theorem Blank.notices (p : Port) : (s.queues.get p).notices = [] := by
  rw [blank.queues]
  cases p <;> rfl

theorem Blank.strobe (l : Line) : s.strobes.get l = .idle := by
  rw [blank.strobes]
  cases l <;> rfl

theorem Blank.held (p : Port) : s.agu.held.get p = none := by
  rw [blank.agu]
  cases p <;> rfl

theorem Blank.ownedCount (p : Port) : ownedCount s p = 0 := by
  simp [Machine.ownedCount, List.countP_eq_zero, ownedBy, blank.slot]

/-- A part with nothing in it is in order if its ports, its profiles and its ASU are. -/
theorem Blank.inOrder (ports : PortsFollowSupply s) (receivers : ReceiversFollowSelect s) (load : LoadFollowsSupply s)
    (profiles : ProfilesInOrder s) (idle : ∀ p c, (s.ports.get p).state ≠ .working c) (lines : LinesFollow s)
    (causes : CauseFollowsFrame s) (steering : SteeringInRange s) : InOrder s where
  ports := ports
  receivers := receivers
  load := load
  nothing := fun _ => ⟨blank.slot, blank.notices, blank.strobe, blank.lease⟩
  profiles := profiles
  lease := fun l held => by simp [blank.lease] at held
  quota := fun p => by simp [blank.ownedCount]
  agenda := by
    have agenda : s.agu.agenda = [] := by rw [blank.agu]; rfl
    exact ⟨by simp [agenda], by simp [agenda, blank.slot], by simp [agenda]⟩
  dues := fun _ h e due at_h => by simp [blank.slot] at at_h
  entries := fun h e at_h => by simp [blank.slot] at at_h
  queues := fun p => by
    have notices := blank.notices p
    have length : (s.queues.get p).notices.length = 0 := by simp [notices]
    exact ⟨⟨by simp [notices], by simp [notices, deliveredFirst], by simp [notices], fun i hi => by omega⟩,
      by simp [notices]⟩
  pendingParts := fun h e at_h => by simp [blank.slot] at at_h
  references := fun h e at_h => by simp [blank.slot] at at_h
  working := fun p => by simp [idle, blank.walkOf]
  held := fun p => by simp [idle, blank.held]
  walk := fun w walk => by simp [blank.walkOf] at walk
  lines := lines
  causes := causes
  strobes := fun l e pulsing => by simp [blank.strobe] at pulsing
  steering := steering

end Blank

/-! ### The ASU after its defaults (R139, R140) -/

theorem attnCondition_defaults {s : State} {p : Port} {f : BitVec 9} (attn : s.attn.get p = .defaults f) :
    attnCondition s p = false := by
  simp [attnCondition, attn, Attn.defaults]

theorem linesFollow_defaults {s : State} {f : BitVec 9} (attn : s.attn = .const (.defaults f)) : LinesFollow s := by
  intro p
  have at_p : s.attn.get p = .defaults f := by rw [attn]; cases p <;> rfl
  have off := attnCondition_defaults at_p
  rw [at_p]
  exact ⟨by simp [Attn.defaults, off], fun e pulse => by simp [Attn.defaults] at pulse⟩

theorem causeFollowsFrame_defaults {s : State} {f : BitVec 9} (attn : s.attn = .const (.defaults f))
    (no_frame : f.getLsbD 6 = false) : CauseFollowsFrame s := by
  intro p
  have at_p : s.attn.get p = .defaults f := by rw [attn]; cases p <;> rfl
  rw [frameFlag, at_p]
  simp only [Attn.defaults, no_frame]

/-- The default tables are in order (R148). -/
theorem profilesInOrder_defaults {s : State} (profiles : s.pru.profiles = defaultProfiles) : ProfilesInOrder s := by
  rw [ProfilesInOrder, profiles]
  exact ⟨fun p => by cases p <;> decide, .a, rfl⟩

/-- Settles O58: nothing is in the part after reset, and every line is released. -/
theorem resetIsInOrder : Obligations.ResetIsInOrder := by
  have blank : Blank State.reset := ⟨rfl, rfl, rfl, rfl⟩
  have controller : ∀ p, State.reset.ports.get p = ⟨false, .notReady, .waiting, []⟩ := fun p => by cases p <;> rfl
  refine blank.inOrder (fun p => ?_) (fun p => ?_) ?_ (profilesInOrder_defaults rfl) (fun p c => ?_)
    (linesFollow_defaults rfl) (causeFollowsFrame_defaults rfl (by decide)) (by unfold SteeringInRange; decide)
  · rw [controller]
    exact ⟨by decide, by decide⟩
  · rw [controller]
    exact ⟨by simp, by simp⟩
  · unfold LoadFollowsSupply
    decide
  · simp [controller]

end Sys2Proof.Machine
end

section
/-! PROOFS. Power-on, the reset input, holdover entry and resume (09_supply_holdover_and_start_up.md). -/

-- One proof after the other: the memory limit of the check bounds the threads of Lean.
set_option Elab.async false

namespace Sys2Proof.Machine

/-! ### Power-on (R193) -/

theorem beginRead_twoWire (s : State) :
    (beginRead s).pru.twoWire = .recovering ∨ (beginRead s).pru.twoWire = .reading := by
  rw [beginRead]
  cases Config.cfgsdaLow s.draws
  · exact .inr rfl
  · exact .inl rfl

theorem beginRead_pru (s : State) :
    (beginRead s).pru = { s.pru with load := .loading, twoWire := (beginRead s).pru.twoWire, bus := [] } := rfl

@[simp] theorem beginRead_tables (s : State) :
    (beginRead s).pru.profiles = s.pru.profiles ∧ (beginRead s).pru.strobeMap = s.pru.strobeMap ∧
      (beginRead s).pru.source = s.pru.source := ⟨rfl, rfl, rfl⟩

theorem beginRead_eq (s : State) : beginRead s = { s with pru := (beginRead s).pru, draws := (beginRead s).draws } := rfl

/-- The part after the power-on of every block, with the read that begins in MAIN, before a system reset (R193). -/
def poweredOn (l : PowerLevels) (s : State) : State :=
  if l.vddHigh then beginRead (powerOnState l s.draws s.pending) else powerOnState l s.draws s.pending

theorem powerOn_eq (l : PowerLevels) (s : State) :
    powerOn l s = if l.vddHigh = true ∧ l.resetLow = true then systemReset (poweredOn l s) else poweredOn l s := by
  cases vdd : l.vddHigh <;> cases reset : l.resetLow <;> simp [powerOn, poweredOn, vdd, reset]

@[simp] theorem poweredOn_frame (l : PowerLevels) (s : State) :
    (poweredOn l s).tbu = ⟨0, 0, 0, 0, 0, .unset, .notArmed⟩ ∧ (poweredOn l s).lease = none ∧
      (poweredOn l s).agu = .empty ∧ (poweredOn l s).queues = .const ⟨[], 0⟩ ∧
      (poweredOn l s).attn = .const (.defaults (flagBit .restarted)) ∧ (poweredOn l s).strobes = .const .idle ∧
      (poweredOn l s).ports = l.select.map (fun sel =>
        ⟨sel, if l.vddHigh then .notReady else .offline, if sel then .discarding else .waiting, []⟩) ∧
      (poweredOn l s).spm =
        ⟨if l.vddHigh then .main else .holdover, if l.vbatHigh then .present else .low, l.resetLow⟩ ∧
      (poweredOn l s).pending = s.pending ∧ (poweredOn l s).pru.profiles = defaultProfiles ∧
      (poweredOn l s).pru.strobeMap = defaultStrobeMap ∧ (poweredOn l s).pru.source = .defaultAbsent := by
  cases vdd : l.vddHigh <;> simp [poweredOn, powerOnState, vdd]

theorem poweredOn_blank (l : PowerLevels) (s : State) : Blank (poweredOn l s) := ⟨by simp, by simp, by simp, by simp⟩

theorem poweredOn_load (l : PowerLevels) (s : State) :
    (l.vddHigh = true → (poweredOn l s).pru.load = .loading ∧
      ((poweredOn l s).pru.twoWire = .recovering ∨ (poweredOn l s).pru.twoWire = .reading)) ∧
    (l.vddHigh = false → (poweredOn l s).pru.load = .waitingSupply ∧ (poweredOn l s).pru.twoWire = .idle) := by
  refine ⟨fun high => ?_, fun low => ?_⟩
  · rw [poweredOn, if_pos high]
    exact ⟨rfl, beginRead_twoWire _⟩
  · simp [poweredOn, low, powerOnState]

theorem get_const {α : Type} (x : α) (p : Port) : (PerPort.const x).get p = x := by cases p <;> rfl

theorem defaultStrobeMap_get (l : Line) : defaultStrobeMap.get l = ⟨none, .activeHigh⟩ := by cases l <;> rfl

/-- An idle line under the default map shows a low pin (R141, R148). -/
theorem strobePinHigh_default {s : State} {l : Line} (map : s.pru.strobeMap = defaultStrobeMap)
    (idle : s.strobes.get l = .idle) : strobePinHigh s l = false := by
  simp [strobePinHigh, map, idle, defaultStrobeMap_get]

/-- Settles O56: the power-on state is given block by block, and the levels decide the supply, the ports and the load. -/
theorem powerOnStartsEveryBlock : Obligations.PowerOnStartsEveryBlock := by
  intro l s
  have blank := poweredOn_blank l s
  obtain ⟨read, waits⟩ := poweredOn_load l s
  refine ⟨poweredOn l s, congrArg Host.Outcome.next (powerOn_eq l s), by simp, by simp, blank.slot, ?_, ?_, by simp,
    fun p => ⟨blank.held p, ?_, ?_, by simp [PerPort.get_map]⟩,
    fun k => ⟨blank.strobe k, strobePinHigh_default (by simp) (blank.strobe k)⟩, by simp, by simp, by simp, by simp, read,
    waits⟩
  · rw [blank.agu]; rfl
  · rw [isRunning, blank.walkOf]; rfl
  · rw [blank.queues, get_const]
  · simp [Attn.defaults]

/-! ### The reset input (R194 to R196) -/

section ResetInput
variable {s : State}

theorem sysrstnAssertion_of_asserted (asserted : s.spm.resetAsserted = true) : sysrstnAssertion s = s := by
  simp [sysrstnAssertion, asserted]

theorem sysrstnRelease_of_released (released : s.spm.resetAsserted = false) : sysrstnRelease s = s := by
  simp [sysrstnRelease, released]

/-- The part with its reset input set (R194). -/
def withResetInput (asserted : Bool) (s : State) : State := { s with spm := { s.spm with resetAsserted := asserted } }

theorem sysrstnAssertion_outside (released : s.spm.resetAsserted = false) (outside : s.spm.supply ≠ .main) :
    sysrstnAssertion s = withResetInput true s := by
  simp [sysrstnAssertion, released, (inMain_eq_false_iff s).mpr outside, withResetInput, State.setSpm]

theorem sysrstnAssertion_main (released : s.spm.resetAsserted = false) (main : s.spm.supply = .main) :
    sysrstnAssertion s = systemReset (withResetInput true s) := by
  simp [sysrstnAssertion, released, (inMain_iff s).mpr main, withResetInput, State.setSpm]

theorem sysrstnRelease_held (asserted : s.spm.resetAsserted = true) (main : s.spm.supply = .main)
    (held : s.pru.twoWire = .held) : sysrstnRelease s = beginRead (withResetInput false s) := by
  simp [sysrstnRelease, asserted, (inMain_iff s).mpr main, held, withResetInput, State.setSpm]

theorem sysrstnRelease_other (asserted : s.spm.resetAsserted = true)
    (other : s.spm.supply ≠ .main ∨ s.pru.twoWire ≠ .held) : sysrstnRelease s = withResetInput false s := by
  have no_read : ¬ (inMain s = true ∧ s.pru.twoWire = .held) := by
    rw [inMain_iff]
    tauto
  simp only [sysrstnRelease, asserted, if_true, if_neg no_read]
  rfl

end ResetInput

theorem systemReset_blank (s : State) : Blank (systemReset s) := ⟨rfl, rfl, rfl, rfl⟩

/-- Settles O57: the rows of the reset input by the input, the supply and the controller. -/
theorem resetInputResetsTheSystem : Obligations.ResetInputResetsTheSystem := by
  intro s no_limit
  have blank := systemReset_blank (withResetInput true s)
  simp only [exec_of_no_limit no_limit, row]
  refine ⟨fun asserted => by rw [sysrstnAssertion_of_asserted asserted],
    fun released => by rw [sysrstnRelease_of_released released],
    fun released outside => by rw [sysrstnAssertion_outside released outside]; rfl, fun released main => ?_,
    fun asserted main held => ?_, fun asserted other => by rw [sysrstnRelease_other asserted other]; rfl⟩
  · rw [sysrstnAssertion_main released main]
    refine ⟨_, rfl, rfl, rfl, blank.slot, rfl, rfl, rfl, rfl, rfl, rfl,
      fun l => ⟨blank.strobe l, strobePinHigh_default rfl (blank.strobe l)⟩, fun p => ⟨blank.held p, ?_, ?_, ?_⟩⟩
    · rw [blank.queues, get_const]
    · simp [systemReset, Attn.defaults]
    · exact PerPort.get_map systemResetPort s.ports p
  · rw [sysrstnRelease_held asserted main held]
    exact ⟨_, rfl, beginRead_eq _, _, beginRead_pru _, beginRead_twoWire _⟩

/-! ### Holdover entry (R188) -/

/-- The part at holdover entry without the held commands and the wanted response (R87). -/
def droppedCommands (s : State) : State :=
  dropWantedResponse none ((setSupply .holdover s).setAgu { s.agu with held := .const none })

/-- The part at holdover entry, before the lease is revoked (R138, R145, R169, R188). -/
def droppedSupply (s : State) : State :=
  { droppedCommands s with
    ports := (droppedCommands s).ports.map holdoverPort
    attn := (droppedCommands s).attn.map releasedLine
    strobes := .const .idle
    pru := holdoverPru (droppedCommands s).pru }

theorem holdoverEntry_main {s : State} (main : s.spm.supply = .main) : holdoverEntry s = loseLease (droppedSupply s) := by
  rw [holdoverEntry, if_pos ((inMain_iff s).mpr main)]
  rfl

@[simp] theorem droppedCommands_frame (s : State) :
    (droppedCommands s).tbu = s.tbu ∧ (droppedCommands s).lease = s.lease ∧ (droppedCommands s).queues = s.queues ∧
    (droppedCommands s).attn = s.attn ∧ (droppedCommands s).strobes = s.strobes ∧ (droppedCommands s).pru = s.pru ∧
    (droppedCommands s).ports = s.ports ∧ (droppedCommands s).spm = { s.spm with supply := .holdover } ∧
    (droppedCommands s).draws = s.draws ∧ (droppedCommands s).pending = s.pending ∧
    (droppedCommands s).agu.store = s.agu.store ∧ (droppedCommands s).agu.agenda = s.agu.agenda ∧
    (droppedCommands s).agu.held = .const none ∧ walkOf (droppedCommands s) = (walkOf s).map (unwanted none) := by
  simp [droppedCommands, setSupply]
  rfl

@[simp] theorem droppedSupply_frame (s : State) :
    (droppedSupply s).tbu = s.tbu ∧ (droppedSupply s).lease = s.lease ∧ (droppedSupply s).agu = (droppedCommands s).agu ∧
    (droppedSupply s).queues = s.queues ∧ (droppedSupply s).attn = s.attn.map releasedLine ∧
    (droppedSupply s).strobes = .const .idle ∧ (droppedSupply s).pru = holdoverPru s.pru ∧
    (droppedSupply s).ports = s.ports.map holdoverPort ∧ (droppedSupply s).spm = { s.spm with supply := .holdover } ∧
    (droppedSupply s).draws = s.draws ∧ (droppedSupply s).pending = s.pending := by
  simp [droppedSupply]

theorem followAttention_outside {s : State} (outside : inMain s = false) (p : Port) (before : Bool) :
    followAttention p before s = s := by
  rw [followAttention, if_neg (by simp [outside])]

/-- Outside MAIN a flag is set and the line stays (R138). -/
theorem handFlag_outside {s : State} (outside : inMain s = false) (f : Flag) (p : Port) :
    handFlag f p s = s.setAttn p { s.attn.get p with flags := (s.attn.get p).flags ||| flagBit f } := by
  rw [handFlag]
  exact followAttention_outside (s := s.setAttn p _) outside p _

/-- Outside MAIN a revocation sets LEASE_LOST on the former holder and moves no line (R122, R138). -/
theorem loseLease_attn_outside {s : State} (outside : inMain s = false) (p : Port) :
    (loseLease s).attn.get p =
      { s.attn.get p with
        flags := (s.attn.get p).flags ||| if isHolder s p = true then flagBit .leaseLost else 0 } := by
  cases held : s.lease with
  | none => simp [loseLease, held, isHolder]
  | some l =>
    have silent : inMain (s.setLease none) = false := outside
    by_cases own : l.holder = p
    · subst own
      simp [loseLease, held, isHolder, handFlag_outside silent]
    · have other : p ≠ l.holder := Ne.symm own
      simp [loseLease, held, isHolder, own, handFlag_other _ _ other]

theorem holdoverPru_eq (x : Pru) :
    holdoverPru x =
      { x with twoWire := .idle, load := if x.load = .loading then .waitingSupply else x.load } := by
  unfold holdoverPru
  cases x.load <;> rfl

/-- Settles O53: outside MAIN nothing is done; in MAIN the supply is dropped block by block, and then the lease is revoked. -/
theorem holdoverEntryDropsThePorts : Obligations.HoldoverEntryDropsThePorts := by
  intro s no_limit
  simp only [exec_of_no_limit no_limit, row]
  refine ⟨fun outside => by rw [holdoverEntry, if_neg (by rw [inMain_iff]; exact outside)], fun main => ?_⟩
  rw [holdoverEntry_main main]
  have dark : inMain (droppedSupply s) = false := by simp [inMain]
  have attn : ∀ p, (loseLease (droppedSupply s)).attn.get p =
      { s.attn.get p with
        line := .released, pulseEnd := none
        flags := (s.attn.get p).flags ||| if isHolder s p = true then flagBit .leaseLost else 0 } := fun p => by
    have holder : isHolder (droppedSupply s) p = isHolder s p := isHolder_congr (by simp) p
    rw [loseLease_attn_outside dark, holder]
    simp [releasedLine, PerPort.get_map]
  have idle : ∀ l, (loseLease (droppedSupply s)).strobes.get l = .idle := fun l => by
    have strobes : (loseLease (droppedSupply s)).strobes = .const .idle := by simp
    rw [strobes]
    cases l <;> rfl
  refine ⟨_, rfl, by simp, by simp, by simp, by simp, by simp, by simp, by simp, by simp, fun p => ?_, ?_,
    fun p => ⟨?_, attn p⟩, fun p => ?_, fun l => ⟨idle l, ?_⟩, ?_⟩
  · simp only [loseLease_frame, droppedSupply_frame, droppedCommands_frame, get_const]
  · have walk : walkOf (loseLease (droppedSupply s)) = walkOf (droppedCommands s) := by simp [walkOf]
    rw [walk, (droppedCommands_frame s).2.2.2.2.2.2.2.2.2.2.2.2.2]
    rfl
  · simp [PerPort.get_map, holdoverPort]
  · simp [attnPinLow, attn]
  · have polarity : (loseLease (droppedSupply s)).pru.strobeMap = s.pru.strobeMap := by simp [holdoverPru]
    rw [strobePinHigh, polarity, idle l]
    cases (s.pru.strobeMap.get l).polarity <;> decide
  · simp [holdoverPru_eq]

/-! ### Resume (R189) -/

theorem resumeAttention_self (s : State) (p : Port) :
    (resumeAttention s p).attn.get p =
      resumeLine s.tbu.mono (attnCondition (resumeFlagged s p) p) ((resumeFlagged s p).attn.get p) := by
  rw [resumeAttention_eq]
  simp

theorem resumeAttention_other (s : State) {p q : Port} (other : q ≠ p) :
    (resumeAttention s p).attn.get q = s.attn.get q := by
  rw [resumeAttention_eq]
  simp [PerPort.get_set_ne _ _ other]

theorem resumeAttention_self_congr {s t : State} {p : Port} (attn : t.attn.get p = s.attn.get p)
    (queues : t.queues = s.queues) (tbu : t.tbu = s.tbu) :
    (resumeAttention t p).attn.get p = (resumeAttention s p).attn.get p := by
  have condition : attnCondition (resumeFlagged t p) p = attnCondition (resumeFlagged s p) p :=
    attnCondition_congr (by simp [resumeFlagged, attn]) (by simp [resumeFlagged, attn])
      (by simp [noticeSource, resumeFlagged, queues])
  rw [resumeAttention_self, resumeAttention_self, condition, tbu]
  simp [resumeFlagged, attn]

/-- A change of the ports one by one, each reaching the attention state of its port alone, does at each port what the change
of that port does. -/
theorem foldl_ports_attn {f : State → Port → State} (other : ∀ s p q, q ≠ p → (f s p).attn.get q = s.attn.get q)
    (frame : ∀ s p, (f s p).queues = s.queues ∧ (f s p).tbu = s.tbu ∧ (f s p).spm = s.spm)
    (congr : ∀ s t p, t.attn.get p = s.attn.get p → t.queues = s.queues → t.tbu = s.tbu → t.spm = s.spm →
      (f t p).attn.get p = (f s p).attn.get p) (s : State) (p : Port) :
    (allPorts.foldl f s).attn.get p = (f s p).attn.get p := by
  have after : ∀ t q, q ≠ p →
      (f t q).attn.get p = t.attn.get p ∧ (f t q).queues = t.queues ∧ (f t q).tbu = t.tbu ∧ (f t q).spm = t.spm :=
    fun t q different => ⟨other t q p different.symm, frame t q⟩
  have here : ∀ t, t.attn.get p = s.attn.get p ∧ t.queues = s.queues ∧ t.tbu = s.tbu ∧ t.spm = s.spm →
      (f t p).attn.get p = (f s p).attn.get p := fun t ⟨attn, queues, tbu, spm⟩ => congr s t p attn queues tbu spm
  simp only [allPorts, List.foldl_cons, List.foldl_nil]
  cases p
  · simp [after]
  · rw [(after _ .d (by decide)).1, (after _ .c (by decide)).1]
    exact here _ (by simp [after])
  · rw [(after _ .d (by decide)).1]
    exact here _ (by simp [after])
  · exact here _ (by simp [after])

theorem foldl_resumeAttention_attn (s : State) (p : Port) :
    (allPorts.foldl resumeAttention s).attn.get p = (resumeAttention s p).attn.get p :=
  foldl_ports_attn (fun s _ _ => resumeAttention_other s) (fun s p => by simp)
    (fun _ _ _ attn queues tbu _ => resumeAttention_self_congr attn queues tbu) s p

theorem resumeLine_spec (m : Mono) (condition : Bool) (a : Attn) :
    (resumeLine m condition a).flags = a.flags ∧ (resumeLine m condition a).cause = a.cause ∧
      (resumeLine m condition a).enables = a.enables ∧ (resumeLine m condition a).mode = a.mode ∧
      ((resumeLine m condition a).line = .driven ↔ condition = true) ∧
      (resumeLine m condition a).pulseEnd = if a.mode = .pulse ∧ condition = true then some (m + 64) else none := by
  cases mode : a.mode <;> cases condition <;>
    simp [resumeLine, mode, levelLine, startedPulse, releasedLine, attnPulseTicks]

/-- Every line at resume takes up its mode, RESUMED being set (R138, R189). -/
theorem resumed_attn (s : State) (p : Port) :
    ((resumed s).attn.get p).flags = (s.attn.get p).flags ||| flagBit .resumed ∧
      ((resumed s).attn.get p).cause = (s.attn.get p).cause ∧ ((resumed s).attn.get p).enables = (s.attn.get p).enables ∧
      ((resumed s).attn.get p).mode = (s.attn.get p).mode ∧
      (((resumed s).attn.get p).line = .driven ↔ attnCondition (resumed s) p = true) ∧
      ((resumed s).attn.get p).pulseEnd =
        if ((resumed s).attn.get p).mode = .pulse ∧ attnCondition (resumed s) p = true then some (s.tbu.mono + 64)
        else none := by
  have at_p : (resumed s).attn.get p =
      resumeLine s.tbu.mono (attnCondition (resumeFlagged s p) p) ((resumeFlagged s p).attn.get p) := by
    rw [resumed, foldl_resumeAttention_attn, ← resumeAttention_self]
    exact resumeAttention_self_congr rfl rfl rfl
  obtain ⟨flags, cause, enables, mode, line, pulse⟩ :=
    resumeLine_spec s.tbu.mono (attnCondition (resumeFlagged s p) p) ((resumeFlagged s p).attn.get p)
  rw [← at_p] at flags cause enables mode line pulse
  have condition : attnCondition (resumed s) p = attnCondition (resumeFlagged s p) p :=
    attnCondition_congr flags enables (by simp [noticeSource, resumeFlagged])
  rw [condition, mode]
  exact ⟨by simpa [resumeFlagged] using flags, by simpa [resumeFlagged] using cause,
    by simpa [resumeFlagged] using enables, by simp [resumeFlagged], line, pulse⟩

theorem settleDue_iff (s : State) : settleDue s = true ↔ s.spm.supply = .settling s.tbu.mono := by
  unfold settleDue
  cases s.spm.supply <;> simp

/-- Settles O55: at the settle end the resume event is taken, and the system reset with the reset input asserted. -/
theorem resumeReturnsThePorts : Obligations.ResumeReturnsThePorts := by
  intro s
  refine ⟨fun other => congrArg Host.Outcome.next (resume_of_not_due ?_), fun settled => ⟨resumeEvent s, ?_, ?_⟩⟩
  · rw [← Bool.not_eq_true, settleDue_iff]
    exact other
  · exact congrArg Host.Outcome.next (if_pos ((settleDue_iff s).mpr settled))
  · refine ⟨by simp, by simp, by simp, by simp, by simp, by simp, by simp,
      fun p => ⟨by simp [PerPort.get_map, resumePort], ?_⟩, ?_, ?_, ?_, ?_, ?_⟩
    · have condition : attnCondition (resumeEvent s) p = attnCondition (resumed s) p :=
        attnCondition_congr (by simp) (by simp) (by simp [noticeSource])
      rw [condition]
      simpa using resumed_attn s p
    all_goals rw [resumeEvent_eq]
    · split <;> simp
    · split <;> simp
    · split <;> simp
    · intro other
      rw [if_neg other]
      simp
    · intro waits
      rw [if_pos waits]
      exact ⟨rfl, beginRead_twoWire _⟩

end Sys2Proof.Machine
end

section
/-! PROOFS. A step of the timeline (01_the_timeline.md 1.7, 03_firing_and_realignment.md 3.3). -/

-- One proof after the other: the memory limit of the check bounds the threads of Lean.
set_option Elab.async false

namespace Sys2Proof.Machine

/-! ### The flags of a step (R14, R19) -/

theorem handFlagToOthers_attn (f : Flag) (e r : Port) (s : State) :
    (handFlagToOthers f e s).attn.get r = if r = e then s.attn.get r else (handFlag f r s).attn.get r := by
  rw [handFlagToOthers, foldl_ports_attn]
  · split <;> rfl
  · intro s p q different
    by_cases excepted : p = e
    · rw [if_pos excepted]
    · rw [if_neg excepted, handFlag_other f s different]
  · intro s p
    split <;> simp
  · intro s t p attn queues tbu spm
    by_cases excepted : p = e
    · rw [if_pos excepted, if_pos excepted, attn]
    · rw [if_neg excepted, if_neg excepted]
      exact handFlag_self_congr f attn (by rw [queues]) (by rw [tbu]) spm

theorem handValidityChange_of_same {v : Validity} {s : State} (same : s.tbu.validity = v) :
    handValidityChange v s = s := by simp [handValidityChange, same]

theorem handValidityChange_of_other {v : Validity} {s : State} (other : s.tbu.validity ≠ v) :
    handValidityChange v s = handFlagToAll .validity s := by simp [handValidityChange, other]

/-- The part after a step gave the TBU its target and its flags were handed over (R19). -/
def steppedFlags (p : Port) (target : Time) (s : State) : State :=
  handValidityChange s.tbu.validity
    (handFlagToOthers .timeAdjusted p (s.setTbu { s.tbu with timeline := target, slew := 0, validity := .valid }))

/-- The walk record of a step (R69). -/
def stepWalk (p : Port) (target : Time) (s : State) : Walk :=
  { port := p, oldValue := s.tbu.timeline, newValue := target, droppedSlew := s.tbu.slew
    delta := (target.toNat : Int) - (s.tbu.timeline.toNat : Int)
    position := 0, skipped := 0, firedLate := 0, wanted := true }

theorem takeStep_eq (p : Port) (target : Time) (s : State) :
    takeStep p target s = setAgendaState (.realigning (stepWalk p target s)) (steppedFlags p target s) := rfl

@[simp] theorem steppedFlags_frame (p : Port) (target : Time) (s : State) :
    (steppedFlags p target s).tbu = { s.tbu with timeline := target, slew := 0, validity := .valid } ∧
      (steppedFlags p target s).lease = s.lease ∧ (steppedFlags p target s).agu = s.agu ∧
      (steppedFlags p target s).queues = s.queues ∧ (steppedFlags p target s).strobes = s.strobes ∧
      (steppedFlags p target s).pru = s.pru ∧ (steppedFlags p target s).ports = s.ports ∧
      (steppedFlags p target s).spm = s.spm ∧ (steppedFlags p target s).draws = s.draws ∧
      (steppedFlags p target s).pending = s.pending := by
  simp [steppedFlags]

@[simp] theorem takeStep_frame (p : Port) (target : Time) (s : State) :
    (takeStep p target s).tbu = { s.tbu with timeline := target, slew := 0, validity := .valid } ∧
      (takeStep p target s).lease = s.lease ∧
      (takeStep p target s).agu = { s.agu with state := .realigning (stepWalk p target s) } ∧
      (takeStep p target s).queues = s.queues ∧ (takeStep p target s).strobes = s.strobes ∧
      (takeStep p target s).pru = s.pru ∧ (takeStep p target s).ports = s.ports ∧ (takeStep p target s).spm = s.spm ∧
      (takeStep p target s).draws = s.draws ∧ (takeStep p target s).pending = s.pending := by
  simp [takeStep_eq, setAgendaState]

/-- The flags of a step are those of R14 and R19, with the answers of the lines; the lines look at no other block that it
changes. -/
theorem takeStep_attn (p r : Port) (target : Time) (s : State) :
    (takeStep p target s).attn.get r = (stepFlagged p r s).attn.get r := by
  have others : (handFlagToOthers .timeAdjusted p
        (s.setTbu { s.tbu with timeline := target, slew := 0, validity := .valid })).attn.get r =
      (if r = p then s else handFlag .timeAdjusted r s).attn.get r := by
    rw [handFlagToOthers_attn]
    by_cases own : r = p
    · rw [if_pos own, if_pos own]; rfl
    · rw [if_neg own, if_neg own]
      exact handFlag_self_congr _ rfl rfl rfl rfl
  rw [takeStep_eq, setAgendaState_frame _ _ |>.2.2.2.1, steppedFlags, stepFlagged]
  by_cases valid : s.tbu.validity = .valid
  · rw [handValidityChange_of_same (by simp [valid]), if_pos valid]
    exact others
  · rw [handValidityChange_of_other (by simp [Ne.symm valid]), if_neg valid, handFlagToAll_attn]
    exact handFlag_self_congr _ others (by split <;> simp) (by split <;> simp) (by split <;> simp)

theorem stepFlagged_congr {s t : State} {p r : Port} (attn : t.attn = s.attn) (queues : t.queues = s.queues)
    (tbu : t.tbu = s.tbu) (spm : t.spm = s.spm) : (stepFlagged p r t).attn.get r = (stepFlagged p r s).attn.get r := by
  have adjusted : (if r = p then t else handFlag .timeAdjusted r t).attn.get r =
      (if r = p then s else handFlag .timeAdjusted r s).attn.get r := by
    by_cases own : r = p
    · rw [if_pos own, if_pos own, attn]
    · rw [if_neg own, if_neg own]
      exact handFlag_self_congr _ (by rw [attn]) (by rw [queues]) (by rw [tbu]) spm
  rw [stepFlagged, stepFlagged, tbu]
  by_cases valid : s.tbu.validity = .valid
  · simpa only [if_pos valid] using adjusted
  · simp only [if_neg valid]
    exact handFlag_self_congr _ adjusted (by split <;> simp [queues]) (by split <;> simp [tbu]) (by split <;> simp [spm])

theorem stepFlagged_flags (p r : Port) (s : State) :
    ((stepFlagged p r s).attn.get r).flags =
        (s.attn.get r).flags ||| (if r = p then 0 else flagBit .timeAdjusted) |||
          (if s.tbu.validity = .valid then 0 else flagBit .validity) ∧
      ((stepFlagged p r s).attn.get r).cause = (s.attn.get r).cause ∧
      ((stepFlagged p r s).attn.get r).enables = (s.attn.get r).enables ∧
      ((stepFlagged p r s).attn.get r).mode = (s.attn.get r).mode := by
  rw [stepFlagged]
  by_cases own : r = p <;> by_cases valid : s.tbu.validity = .valid <;> simp [own, valid, handFlag_flags]

/-! ### The target of a step (R17, R18) -/

theorem runStepTime_refused {p : Port} {payload : List Byte} {s : State} (h : stepTarget s.tbu.timeline payload = none) :
    runStepTime p payload s = complete p .badValue [] s := by rw [runStepTime, h]

theorem runStepTime_taken {p : Port} {payload : List Byte} {s : State} {target : Time}
    (h : stepTarget s.tbu.timeline payload = some target) : runStepTime p payload s = takeStep p target s := by
  rw [runStepTime, h]

theorem stepTimePayload_fields (mode direction : Byte) {seconds ticks : Nat} (h1 : seconds < 4294967296)
    (h2 : ticks < 65536) :
    byteAt (stepTimePayload mode direction seconds ticks) 0 = mode ∧
      byteAt (stepTimePayload mode direction seconds ticks) 1 = direction ∧
      numField (stepTimePayload mode direction seconds ticks) 2 4 = seconds ∧
      numField (stepTimePayload mode direction seconds ticks) 6 2 = ticks := by
  refine ⟨rfl, rfl, numField_toBytes_append (n := 4) (toBytes 2 ticks) (by simpa using h1), ?_⟩
  have after : numField (toBytes 4 seconds ++ toBytes 2 ticks) 4 2 = ticks := by
    rw [numField_append_right (by simp)]
    simpa using numField_toBytes (n := 2) (by simpa using h2)
  exact after

/-- The target of a step by its mode and direction (R18). -/
theorem stepTarget_iff {now target : Time} {payload : List Byte} (seconds : numField payload 2 4 < 4294967296) :
    stepTarget now payload = some target ↔
      numField payload 6 2 ≤ 4095 ∧
        ((byteAt payload 0 = 0x00 ∧ target.toNat = numField payload 2 4 * 4096 + numField payload 6 2) ∨
          (byteAt payload 0 = 0x01 ∧ numField payload 2 4 ≤ 2147483647 ∧
            ((byteAt payload 1 = 0x00 ∧
                target.toNat = now.toNat + (numField payload 2 4 * 4096 + numField payload 6 2)) ∨
              (byteAt payload 1 = 0x01 ∧
                target.toNat + (numField payload 2 4 * 4096 + numField payload 6 2) = now.toNat)))) := by
  have exact_time : ∀ n, n < 17592186044416 → (some (timeOf n) = some target ↔ target.toNat = n) := fun n small => by
    have inside : n ≤ lastTime.toNat := Nat.le_of_lt_succ small
    rw [← timeInRange_iff, timeInRange, if_pos inside]
  have now_small := now.isLt
  simp only [stepTarget]
  by_cases ticks : 4095 < numField payload 6 2
  · simp [ticks, Nat.not_le.mpr ticks]
  have ticks' := Nat.not_lt.mp ticks
  rw [if_neg ticks]
  by_cases absolute : byteAt payload 0 = 0x00
  · rw [if_pos absolute, exact_time _ (by omega)]
    simp [absolute, ticks']
  rw [if_neg absolute]
  by_cases relative : byteAt payload 0 = 0x01
  · rw [if_pos relative]
    by_cases large : 2147483647 < numField payload 2 4
    · simp [large, relative, Nat.not_le.mpr large]
    rw [if_neg large]
    by_cases up : byteAt payload 1 = 0x00
    · rw [if_pos up, timeInRange_iff]
      simp [relative, up, ticks', Nat.not_lt.mp large]
    rw [if_neg up]
    by_cases down : byteAt payload 1 = 0x01
    · rw [if_pos down]
      split
      · next fits =>
        rw [exact_time _ (by omega)]
        simp [relative, down, ticks', Nat.not_lt.mp large]
        omega
      · simp [relative, down]
        omega
    · simp only [absolute, up, down, if_false, false_and, or_self, and_false, reduceCtorEq]
  · simp only [absolute, relative, if_false, false_and, or_self, and_false, reduceCtorEq]

/-- Settles O16: a STEP_TIME of the holder reaches the TBU, which refuses it or takes it; a step is one change of the counts,
the flags and the walk record. -/
theorem stepIsTaken : Obligations.StepIsTaken := by
  refine ⟨fun p snap s seq payload ready holds running length => ?_,
    fun now target mode direction seconds ticks h1 h2 => ?_⟩
  · have taken : exec (.stepTime p seq payload) s =
        .next (runStepTime p payload (outstanding p snap 0x14 seq payload false s)) := by
      rw [exec_stepTime ready length, withAuthority_of_holder (by simpa using holds),
        handToAgenda_of_running (by simpa using running)]
      rfl
    refine ⟨fun none => ?_, fun target some => ⟨takeStep p target (outstanding p snap 0x14 seq payload false s), ?_⟩⟩
    · rw [taken, runStepTime_refused (by simpa using none), complete_outstanding]
    · have flags := fun r => stepFlagged_congr (p := p) (r := r) (s := s)
        (t := outstanding p snap 0x14 seq payload false s) (by simp) (by simp) (by simp) (by simp)
      rw [taken, runStepTime_taken (by simpa using some)]
      refine ⟨rfl, by simp, by simp [stepWalk], by simp, fun r => ?_, by simp, by simp, by simp, by simp, by simp, by simp,
        by simp⟩
      rw [takeStep_attn, flags]
      obtain ⟨set, cause, enables, mode⟩ := stepFlagged_flags p r s
      exact ⟨set, cause, enables, mode, rfl⟩
  · obtain ⟨h_mode, h_direction, h_seconds, h_ticks⟩ := stepTimePayload_fields mode direction h1 h2
    rw [stepTarget_iff (by rw [h_seconds]; exact h1), h_mode, h_direction, h_seconds, h_ticks]

end Sys2Proof.Machine
end

section
/-! PROOFS. The next match of a pattern is the least one (02_agenda_entries.md 2.4). -/

-- One proof after the other: the memory limit of the check bounds the threads of Lean.
set_option Elab.async false

namespace Sys2Proof.Machine

/-! ### Least numbers -/

/-- A search gives the least number with a property, and nothing where no number has it. -/
def Finds (P : Nat → Prop) (o : Option Nat) : Prop :=
  (∀ m, o = some m → P m ∧ ∀ x, P x → m ≤ x) ∧ (o = none → ∀ x, ¬ P x)

namespace Finds
variable {P Q : Nat → Prop} {o r : Option Nat}

theorem congr (h : Finds P o) (same : ∀ x, Q x ↔ P x) : Finds Q o := by
  have : Q = P := funext fun x => propext (same x)
  rwa [this]

theorem nothing (h : ∀ x, ¬ P x) : Finds P none := ⟨fun _ => nofun, fun _ => h⟩

/-- A search that goes on where the first one finds nothing. -/
theorem or (first : Finds P o) (second : Finds Q r) (before : ∀ x y, P x → Q y → x ≤ y) :
    Finds (fun x => P x ∨ Q x) (o.or r) := by
  cases o with
  | some m =>
    obtain ⟨found, least⟩ := first.1 m rfl
    refine ⟨fun k same => ?_, nofun⟩
    cases same
    exact ⟨.inl found, fun x => fun
      | .inl h => least x h
      | .inr h => before m x found h⟩
  | none =>
    have no := first.2 rfl
    exact ⟨fun m h => ⟨.inr (second.1 m h).1, fun x => fun
        | .inl h => absurd h (no x)
        | .inr hx => (second.1 m h).2 x hx⟩,
      fun h x => fun
        | .inl hx => no x hx
        | .inr hx => second.2 h x hx⟩

/-- A search under a condition. -/
theorem guard {c : Prop} [Decidable c] (h : c → Finds P o) : Finds (fun x => c ∧ P x) (if c then o else none) := by
  by_cases holds : c
  · rw [if_pos holds]
    exact (h holds).congr fun x => by simp [holds]
  · rw [if_neg holds]
    exact nothing fun x hx => holds hx.1

/-- A search for the remainder over a fixed quotient. -/
theorem shift {b q : Nat} (h : Finds P o) (small : ∀ x, P x → x < b) :
    Finds (fun x => x / b = q ∧ P (x % b)) (o.map fun r => q * b + r) := by
  cases o with
  | none =>
    exact nothing fun x hx => h.2 rfl _ hx.2
  | some m =>
    obtain ⟨found, least⟩ := h.1 m rfl
    refine ⟨fun k same => ?_, nofun⟩
    cases same
    have fits := small m found
    have pos : 0 < b := by omega
    have div : (q * b + m) / b = q := by rw [Nat.mul_comm, Nat.mul_add_div pos, Nat.div_eq_of_lt fits, Nat.add_zero]
    have mod : (q * b + m) % b = m := by rw [Nat.mul_comm, Nat.mul_add_mod, Nat.mod_eq_of_lt fits]
    refine ⟨⟨div, by rwa [mod]⟩, fun x ⟨quotient, rest⟩ => ?_⟩
    have lower := least _ rest
    have whole := Nat.div_add_mod x b
    rw [quotient, Nat.mul_comm] at whole
    show q * b + m ≤ x
    omega

/-- A search for the quotient and then for the remainder. -/
theorem pair {b : Nat} (quotients : Finds P o) (remainders : Finds Q r) (small : ∀ x, Q x → x < b) :
    Finds (fun x => P (x / b) ∧ Q (x % b)) (o.bind fun q => r.map fun y => q * b + y) := by
  cases o with
  | none => exact nothing fun x hx => quotients.2 rfl _ hx.1
  | some q =>
    obtain ⟨found, least⟩ := quotients.1 q rfl
    have here := remainders.shift (q := q) small
    cases r with
    | none => exact nothing fun x hx => remainders.2 rfl _ hx.2
    | some y =>
      obtain ⟨⟨quotient, rest⟩, first⟩ := here.1 _ rfl
      refine ⟨fun k same => ?_, nofun⟩
      cases same
      refine ⟨⟨by rwa [quotient], rest⟩, fun x ⟨hq, hr⟩ => ?_⟩
      rcases Nat.eq_or_lt_of_le (least _ hq) with same | later
      · exact first x ⟨same.symm, hr⟩
      · exact (Nat.lt_of_div_lt_div (by rwa [quotient])).le

end Finds

/-! ### The time of day (R35) -/

theorem finds_fieldFrom (f : Option Nat) (lo bound : Nat) :
    Finds (fun x => lo ≤ x ∧ x < bound ∧ fieldMatches f x = true) (fieldFrom f lo bound) := by
  cases f with
  | none =>
    refine ((Finds.guard (c := lo < bound) (P := fun x => lo ≤ x ∧ x < bound) (o := some lo) fun small =>
      ⟨fun m same => ?_, nofun⟩).congr fun x => ?_)
    · cases same
      exact ⟨⟨le_rfl, small⟩, fun x hx => hx.1⟩
    · simp only [fieldMatches, and_true]
      omega
  | some y =>
    refine ((Finds.guard (c := (decide (lo ≤ y) && decide (y < bound)) = true) (P := fun x => x = y) (o := some y)
      fun _ => ⟨fun m same => ?_, nofun⟩).congr fun x => ?_)
    · cases same
      exact ⟨rfl, fun x hx => hx.ge⟩
    · simp only [fieldMatches, Bool.and_eq_true, decide_eq_true_eq, beq_iff_eq]
      constructor
      · rintro ⟨h1, h2, rfl⟩
        exact ⟨⟨h1, h2⟩, rfl⟩
      · rintro ⟨⟨h1, h2⟩, rfl⟩
        exact ⟨h1, h2, rfl⟩

/-- A second of the day, by its hour, minute and second. -/
theorem timeOfDay_split (t : Nat) :
    t = t / 3600 * 3600 + t % 3600 / 60 * 60 + t % 60 ∧ t % 3600 / 60 < 60 ∧ t % 60 < 60 ∧
      t % 3600 % 60 = t % 60 ∧ t / 60 = t / 3600 * 60 + t % 3600 / 60 := by omega

/-- The search of the time of day: in the minute of `t0`, else in its hour, else in a later hour (R37). -/
theorem finds_nextTimeOfDay (pat : Pattern) {t0 : Nat} (inside : t0 < 86400) :
    Finds (fun t => t0 ≤ t ∧ t < 86400 ∧ timeOfDayMatches pat t = true) (nextTimeOfDay pat t0) := by
  have sameMinute := Finds.guard
    (c := (fieldMatches pat.hour (t0 / 3600) && fieldMatches pat.minute (t0 % 3600 / 60)) = true)
    fun _ => (finds_fieldFrom pat.second (t0 % 60) 60).shift (q := t0 / 3600 * 60 + t0 % 3600 / 60) fun x hx => hx.2.1
  have restOfHour := fun lo =>
    (finds_fieldFrom pat.minute lo 60).pair (finds_fieldFrom pat.second 0 60) fun x hx => hx.2.1
  have below_hour : ∀ lo x, ((lo ≤ x / 60 ∧ x / 60 < 60 ∧ fieldMatches pat.minute (x / 60) = true) ∧
      0 ≤ x % 60 ∧ x % 60 < 60 ∧ fieldMatches pat.second (x % 60) = true) → x < 3600 := fun lo x hx => by omega
  have sameHour := Finds.guard (c := fieldMatches pat.hour (t0 / 3600) = true)
    fun _ => (restOfHour (t0 % 3600 / 60 + 1)).shift (q := t0 / 3600) (below_hour _)
  have later := (finds_fieldFrom pat.hour (t0 / 3600 + 1) 24).pair (restOfHour 0) (below_hour 0)
  have found := sameMinute.or (sameHour.or later fun x y hx hy => by omega) fun x y hx hy => by omega
  refine Finds.congr (o := nextTimeOfDay pat t0) (by
    simpa only [nextTimeOfDay, Option.map_bind, Option.map_map, Function.comp_def, Nat.add_mul, Nat.mul_assoc,
      Nat.reduceMul, ← Nat.add_assoc] using found) fun t => ?_
  obtain ⟨whole, minute, second, rest, front⟩ := timeOfDay_split t
  obtain ⟨whole0, minute0, second0, -, -⟩ := timeOfDay_split t0
  simp only [timeOfDayMatches, Bool.and_eq_true, rest, front]
  generalize t / 3600 = h at *
  generalize t % 3600 / 60 = m at *
  generalize t % 60 = s at *
  generalize t0 / 3600 = h0 at *
  generalize t0 % 3600 / 60 = m0 at *
  generalize t0 % 60 = s0 at *
  constructor
  · rintro ⟨after, below, ⟨hour, minutes⟩, seconds⟩
    by_cases same : h = h0
    · subst same
      by_cases equal : m = m0
      · subst equal
        exact .inl ⟨⟨hour, minutes⟩, rfl, by omega, second, seconds⟩
      · exact .inr (.inl ⟨hour, rfl, ⟨by omega, minute, minutes⟩, Nat.zero_le _, second, seconds⟩)
    · exact .inr (.inr ⟨⟨by omega, by omega, hour⟩, ⟨Nat.zero_le _, minute, minutes⟩, Nat.zero_le _, second, seconds⟩)
  · rintro (⟨⟨hour, minutes⟩, same, lower, -, seconds⟩ | ⟨hour, rfl, ⟨lower, -, minutes⟩, -, -, seconds⟩ |
      ⟨⟨lower, upper, hour⟩, ⟨-, -, minutes⟩, -, -, seconds⟩)
    · obtain ⟨rfl, rfl⟩ : h = h0 ∧ m = m0 := by omega
      exact ⟨by omega, by omega, ⟨hour, minutes⟩, seconds⟩
    · exact ⟨by omega, by omega, ⟨hour, minutes⟩, seconds⟩
    · exact ⟨by omega, by omega, ⟨hour, minutes⟩, seconds⟩

/-! ### The day (R35) -/

theorem finds_findDay (pat : Pattern) (fuel d : Nat) :
    Finds (fun x => d ≤ x ∧ x < d + fuel ∧ dayMatches pat x = true) (findDay pat fuel d) := by
  induction fuel generalizing d with
  | zero => exact Finds.nothing fun x hx => by omega
  | succ n ih =>
    by_cases here : dayMatches pat d = true
    · rw [findDay, if_pos here]
      refine ⟨fun m same => ?_, nofun⟩
      cases same
      exact ⟨⟨le_rfl, by omega, here⟩, fun x hx => hx.1⟩
    · rw [findDay, if_neg here]
      refine (ih (d + 1)).congr fun x => ?_
      constructor
      · rintro ⟨lower, upper, holds⟩
        have other : x ≠ d := fun same => here (same ▸ holds)
        exact ⟨by omega, by omega, holds⟩
      · rintro ⟨lower, upper, holds⟩
        exact ⟨by omega, by omega, holds⟩

/-! ### The next match (R37) -/

/-- A second of the range at which a pattern matches (R35). -/
def matchesSecond (pat : Pattern) (n : Nat) : Prop :=
  dayMatches pat (n / 86400) = true ∧ timeOfDayMatches pat (n % 86400) = true

theorem finds_nextMatchSecond (pat : Pattern) {n0 : Nat} (inside : n0 / 86400 ≤ lastDay) :
    Finds (fun n => n0 ≤ n ∧ n / 86400 ≤ lastDay ∧ matchesSecond pat n) (nextMatchSecond pat n0) := by
  have today := Finds.guard (c := dayMatches pat (n0 / 86400) = true)
    fun _ => (finds_nextTimeOfDay pat (Nat.mod_lt n0 (by decide : 0 < 86400))).shift (q := n0 / 86400)
      fun x hx => hx.2.1
  have later := (finds_findDay pat (lastDay - n0 / 86400) (n0 / 86400 + 1)).pair
    (finds_nextTimeOfDay pat (by decide : 0 < 86400)) fun x hx => hx.2.1
  refine (today.or later fun x y hx hy => by omega).congr fun n => ?_
  have bound : n % 86400 < 86400 := Nat.mod_lt _ (by decide)
  have parts := Nat.div_add_mod n 86400
  have parts0 := Nat.div_add_mod n0 86400
  constructor
  · rintro ⟨after, last, day, time⟩
    by_cases same : n / 86400 = n0 / 86400
    · exact .inl ⟨same ▸ day, same, by omega, bound, time⟩
    · exact .inr ⟨⟨by omega, by omega, day⟩, Nat.zero_le _, bound, time⟩
  · rintro (⟨day, same, lower, -, time⟩ | ⟨⟨lower, upper, day⟩, -, -, time⟩)
    · exact ⟨by omega, by omega, by rwa [same], time⟩
    · exact ⟨by omega, by omega, day, time⟩

theorem patternMatches_iff (pat : Pattern) (x : Time) :
    patternMatches pat x = true ↔ x.toNat = secondsOf x * 4096 ∧ matchesSecond pat (secondsOf x) := by
  have split : x.toNat = secondsOf x * 4096 + ticksOf x := by simp only [secondsOf, ticksOf]; omega
  have whole : ticksOf x = 0 ↔ x.toNat = secondsOf x * 4096 := by omega
  simp only [patternMatches, Bool.and_eq_true, beq_iff_eq, matchesSecond, and_assoc, whole]

theorem secondsOf_of_mul {x : Time} {n : Nat} (h : x.toNat = n * 4096) : secondsOf x = n := by
  rw [secondsOf, h, Nat.mul_div_cancel _ (by decide)]

/-- The seconds of a match strictly after a value (R37). -/
theorem match_after_iff (pat : Pattern) (v x : Time) :
    v < x ∧ patternMatches pat x = true ↔
      x.toNat = secondsOf x * 4096 ∧ secondsOf v + 1 ≤ secondsOf x ∧ secondsOf x / 86400 ≤ lastDay ∧
        matchesSecond pat (secondsOf x) := by
  have split : v.toNat = secondsOf v * 4096 + ticksOf v := by simp only [secondsOf, ticksOf]; omega
  have ticks := ticksOf_lt v
  have seconds := secondsOf_lt x
  have day : secondsOf x / 86400 ≤ lastDay := by
    have : lastDay = 49710 := rfl
    omega
  rw [patternMatches_iff, BitVec.lt_def]
  constructor
  · rintro ⟨after, whole, rest⟩
    exact ⟨whole, by omega, day, rest⟩
  · rintro ⟨whole, after, -, rest⟩
    exact ⟨by omega, whole, rest⟩

theorem nextMatch_spec (pat : Pattern) (v : Time) :
    (∀ m, nextMatch pat v = some m →
      v < m ∧ patternMatches pat m = true ∧ ∀ x : Time, v < x → patternMatches pat x = true → m ≤ x) ∧
    (nextMatch pat v = none → ∀ x : Time, v < x → patternMatches pat x = false) := by
  have start : (secondsOf v + 1) / 86400 ≤ lastDay := by
    have : lastDay = 49710 := rfl
    have := secondsOf_lt v
    omega
  have found := finds_nextMatchSecond pat start
  constructor
  · intro m h
    obtain ⟨n, second, inRange⟩ := Option.bind_eq_some_iff.mp h
    rw [timeInRange_iff] at inRange
    obtain ⟨⟨after, day, holds⟩, least⟩ := found.1 n second
    have at_m := secondsOf_of_mul inRange
    obtain ⟨later, matched⟩ := (match_after_iff pat v m).mpr (by rw [at_m]; exact ⟨inRange, after, day, holds⟩)
    refine ⟨later, matched, fun x hx other => ?_⟩
    obtain ⟨whole, rest⟩ := (match_after_iff pat v x).mp ⟨hx, other⟩
    have lower := least _ rest
    rw [BitVec.le_def]
    omega
  · intro h x hx
    rw [← Bool.not_eq_true]
    intro other
    obtain ⟨whole, rest⟩ := (match_after_iff pat v x).mp ⟨hx, other⟩
    rw [nextMatch, Option.bind_eq_none_iff] at h
    cases second : nextMatchSecond pat (secondsOf v + 1) with
    | none => exact found.2 second _ rest
    | some n =>
      have outside := timeInRange_eq_none_iff.mp (h n second)
      have lower := (found.1 n second).2 _ rest
      have last := le_lastTime x
      omega

/-- Settles O13: the search finds the least matching second after the value, in its day or in a later one. -/
theorem nextMatchIsLeast : Obligations.NextMatchIsLeast := by
  intro pat v
  obtain ⟨found, nothing⟩ := nextMatch_spec pat v
  refine ⟨fun m => ⟨found m, fun ⟨after, matched, least⟩ => ?_⟩, nothing, fun no => ?_⟩
  · cases next : nextMatch pat v with
    | none => exact absurd matched (by simp [nothing next m after])
    | some k =>
      obtain ⟨later, holds, lower⟩ := found k next
      exact congrArg some (BitVec.le_antisymm (lower m after matched) (least k later holds))
  · cases next : nextMatch pat v with
    | none => rfl
    | some k =>
      obtain ⟨later, holds, -⟩ := found k next
      exact absurd holds (by simp [no k later])

end Sys2Proof.Machine
end

section
/-! PROOFS. The records of entries and notices that stand together (R28, R48, R49, R88 to R96): what a queue and a record
owe each other, stated per handle, and the changes of a queue that keep it. -/

-- One proof after the other: the memory limit of the check bounds the threads of Lean.
set_option Elab.async false

namespace Sys2Proof.Machine

/-! ### One record and its notices -/

/-- The notices of a queue that carry a handle. -/
def noticesOf (h : Handle) (q : NoticeQueue) : List Notice := q.notices.filter fun n => n.handle == h

theorem mem_noticesOf {h : Handle} {q : NoticeQueue} {n : Notice} : n ∈ noticesOf h q ↔ n ∈ q.notices ∧ n.handle = h := by
  simp [noticesOf]

/-- A notice is open to a merge: UNDELIVERED and FIRED (R92). -/
def isOpen (n : Notice) : Bool := !n.delivered && n.report.reason == .fired

theorem any_isOpenFor (h : Handle) (q : NoticeQueue) : q.notices.any (isOpenFor h) = (noticesOf h q).any isOpen := by
  rw [noticesOf, List.any_filter]
  congr 1
  funext n
  simp [isOpenFor, isOpen, Bool.and_assoc]

/-- A period is long enough (R32, R34). -/
def PeriodOk (sch : Schedule) : Prop :=
  (∀ per anchor, sch = .periodicWall per anchor → 16 ≤ per.toNat) ∧ ∀ per, sch = .periodicElapsed per → 16 ≤ per.toNat

/-- An entry record and the notices of its handle in its owner's queue stand together (R28, R48, R49, R90, R92 to R94). -/
structure EntryOk (own : List Notice) (e : Entry) : Prop where
  period : PeriodOk e.schedule
  missed : e.schedule.kind = .oneShot → e.missed = 0
  summary : ∀ r, e.summary = some r → r.reason = .fired
  terminal : ∀ r, e.terminal = some r → r.reason ≠ .fired ∧ r.fires = 0 ∧ isEnded e = true
  silent : e.notify = false → own = [] ∧ e.summary = none ∧ e.terminal = none
  waits : e.summary ≠ none → own.any isOpen = false
  last : ∀ n ∈ own, n.report.reason ≠ .fired → isEnded e = true ∧ n.report.fires = 0

namespace EntryOk
variable {own : List Notice} {e : Entry}

/-- Another state of the entry, which is not ARMED again once ENDED (R29). -/
theorem withStatus (ok : EntryOk own e) {st : EntryStatus} (ends : isEnded e = true → isEnded { e with status := st } = true) :
    EntryOk own { e with status := st } where
  period := ok.period
  missed := ok.missed
  summary := ok.summary
  terminal := fun r h => ⟨(ok.terminal r h).1, (ok.terminal r h).2.1, ends (ok.terminal r h).2.2⟩
  silent := ok.silent
  waits := ok.waits
  last := fun n hn reason => ⟨ends (ok.last n hn reason).1, (ok.last n hn reason).2⟩

theorem withMissed (ok : EntryOk own e) {m : Half} (none : e.schedule.kind = .oneShot → m = 0) :
    EntryOk own { e with missed := m } :=
  ⟨ok.period, none, ok.summary, ok.terminal, ok.silent, ok.waits, ok.last⟩

/-- Fewer notices, or notices that have been delivered since. -/
theorem weaken (ok : EntryOk own e) {less : List Notice}
    (from_own : ∀ n ∈ less, ∃ m ∈ own, m.report = n.report ∧ (n.delivered = false → m.delivered = false)) :
    EntryOk less e where
  period := ok.period
  missed := ok.missed
  summary := ok.summary
  terminal := ok.terminal
  silent := fun silent => by
    obtain ⟨none, rest⟩ := ok.silent silent
    refine ⟨List.eq_nil_iff_forall_not_mem.mpr fun n hn => ?_, rest⟩
    obtain ⟨m, hm, -⟩ := from_own n hn
    simp [none] at hm
  waits := fun some => by
    rw [List.any_eq_false]
    intro n hn hopen
    obtain ⟨m, hm, report, delivered⟩ := from_own n hn
    have closed := List.any_eq_false.mp (ok.waits some) m hm
    rw [isOpen, Bool.and_eq_true, Bool.not_eq_true'] at hopen
    exact closed (by simp [isOpen, report, delivered hopen.1, hopen.2])
  last := fun n hn reason => by
    obtain ⟨m, hm, report, -⟩ := from_own n hn
    rw [← report] at reason ⊢
    exact ok.last m hm reason

end EntryOk

/-! ### Queues -/

/-- What a change of a queue on behalf of one handle keeps (R88, R89). -/
structure QueueStep (h : Handle) (q r : NoticeQueue) : Prop where
  order : QueueInOrder q → QueueInOrder r
  grows : q.notices.length ≤ r.notices.length
  handles : ∀ n ∈ r.notices, n.handle = h ∨ ∃ m ∈ q.notices, m.handle = n.handle
  others : ∀ g, g ≠ h → noticesOf g r = noticesOf g q

theorem QueueStep.refl (h : Handle) (q : NoticeQueue) : QueueStep h q q :=
  ⟨id, le_rfl, fun n hn => .inr ⟨n, hn, rfl⟩, fun _ _ => rfl⟩

theorem QueueStep.trans {h : Handle} {q r u : NoticeQueue} (a : QueueStep h q r) (b : QueueStep h r u) : QueueStep h q u where
  order := b.order ∘ a.order
  grows := a.grows.trans b.grows
  handles := fun n hn => by
    rcases b.handles n hn with own | ⟨m, hm, same⟩
    · exact .inl own
    · rw [← same]
      exact a.handles m hm
  others := fun g other => (b.others g other).trans (a.others g other)

/-- A queue with a notice at its back, UNDELIVERED, with the next sequence number (R88, R89). -/
def appended (h : Handle) (tag : Half) (r : Report) (q : NoticeQueue) : NoticeQueue :=
  ⟨q.notices ++ [newNotice q h tag r], q.nextSeq + 1⟩

theorem noticesOf_appended (h g : Handle) (tag : Half) (r : Report) (q : NoticeQueue) :
    noticesOf g (appended h tag r q) = noticesOf g q ++ if g = h then [newNotice q h tag r] else [] := by
  by_cases same : g = h
  · subst same
    simp [noticesOf, appended, newNotice]
  · simp [noticesOf, appended, newNotice, same, Ne.symm same]

theorem countP_isOpenFor (h : Handle) (q : NoticeQueue) : q.notices.countP (isOpenFor h) = (noticesOf h q).countP isOpen := by
  rw [noticesOf, List.countP_filter]
  congr 1
  funext n
  rw [isOpenFor, isOpen, Bool.and_assoc, Bool.and_comm]

/-- A notice joins the back of a queue with room; a FIRED one only where none of its handle is open (R88, R92). -/
theorem QueueInOrder.appended {h : Handle} {tag : Half} {r : Report} {q : NoticeQueue} (ok : QueueInOrder q)
    (room : q.notices.length < 16) (closed : r.reason = .fired → (noticesOf h q).any isOpen = false) :
    QueueInOrder (appended h tag r q) := by
  obtain ⟨-, delivered, opens, seq⟩ := ok
  refine ⟨?_, ?_, fun g => ?_, fun i hi => ?_⟩
  · simpa [Machine.appended, queueDepth] using room
  · simp only [Machine.appended, deliveredFirst, List.pairwise_append, List.mem_singleton]
    refine ⟨delivered, List.pairwise_singleton _ _, fun n _ m new marked => ?_⟩
    rw [new] at marked
    simp [newNotice] at marked
  · have before := opens g
    rw [countP_isOpenFor] at before ⊢
    rw [noticesOf_appended, List.countP_append]
    by_cases same : g = h
    · subst same
      by_cases fired : r.reason = .fired
      · have none : (noticesOf g q).countP isOpen = 0 := by
          rw [List.countP_eq_zero]
          exact List.any_eq_false.mp (closed fired)
        simp [none, isOpen, newNotice, fired]
      · simpa [isOpen, newNotice, fired] using before
    · simpa [same] using before
  · simp only [Machine.appended, List.length_append, List.length_singleton] at hi ⊢
    by_cases last : i = q.notices.length
    · subst last
      simp [newNotice]
    · have inside : i < q.notices.length := by omega
      have before := seq i inside
      rw [List.getElem_append_left inside, ← before]
      have one : q.notices.length + 1 - i = (q.notices.length - i) + 1 := by omega
      rw [one, BitVec.ofNat_add, BitVec.add_assoc]
      rfl

theorem queueStep_appended {h : Handle} {tag : Half} {r : Report} {q : NoticeQueue} (room : q.notices.length < 16)
    (closed : r.reason = .fired → (noticesOf h q).any isOpen = false) : QueueStep h q (appended h tag r q) where
  order := fun ok => ok.appended room closed
  grows := by simp [appended]
  handles := fun n hn => by
    rcases List.mem_append.mp hn with old | new
    · exact .inr ⟨n, old, rfl⟩
    · rw [List.mem_singleton.mp new]
      exact .inl rfl
  others := fun g other => by rw [noticesOf_appended, if_neg other, List.append_nil]

/-- A change of the notices of a queue that keeps handle, sequence number and delivery mark, and the reason of each (R92). -/
theorem QueueInOrder.map {q : NoticeQueue} (ok : QueueInOrder q) {f : Notice → Notice}
    (keeps : ∀ n, (f n).handle = n.handle ∧ (f n).seq = n.seq ∧ (f n).delivered = n.delivered ∧
      (f n).report.reason = n.report.reason) : QueueInOrder { q with notices := q.notices.map f } := by
  obtain ⟨length, delivered, opens, seq⟩ := ok
  refine ⟨by simpa using length, ?_, fun g => ?_, fun i hi => ?_⟩
  · simp only [deliveredFirst, List.pairwise_map, keeps]
    exact delivered
  · have same : isOpenFor g ∘ f = isOpenFor g := by
      funext n
      simp [isOpenFor, keeps]
    rw [List.countP_map, same]
    exact opens g
  · rw [List.length_map] at hi
    simp only [List.getElem_map, keeps, List.length_map]
    exact seq i hi

/-! ### Taking an occurrence and a terminal report (R92, R93) -/

section Taken
variable {h : Handle} {e : Entry} {tag : Half} {r : Report} {q q' : NoticeQueue} {summary terminal : Option Report}

/-- What becomes of an occurrence: merged into the open notice, appended, or merged into the pending summary (R92). -/
theorem occurrenceTaken_cases (taken : occurrenceTaken h tag r q e.summary = (q', summary)) :
    ((noticesOf h q).any isOpen = true ∧ q' = { q with notices := q.notices.map (mergedInto h r) } ∧
        summary = e.summary) ∨
      ((noticesOf h q).any isOpen = false ∧ q.notices.length < 16 ∧ q' = appended h tag r q ∧ summary = e.summary) ∨
      ((noticesOf h q).any isOpen = false ∧ 16 ≤ q.notices.length ∧ q' = q ∧
        summary = some (match e.summary with
          | none => r
          | some x => combine x r)) := by
  have opened : (∃ n ∈ q.notices, n.handle = h ∧ n.delivered = false ∧ n.report.reason = .fired) ↔
      (noticesOf h q).any isOpen = true := by
    rw [← any_isOpenFor, List.any_eq_true]
    simp only [isOpenFor_iff]
  unfold occurrenceTaken at taken
  simp only [opened] at taken
  split_ifs at taken with some room
  · refine .inl ?_
    cases taken
    refine ⟨some, ?_, rfl⟩
    congr 2
    funext n
    simp only [mergedInto, isOpenFor_iff]
  · cases taken
    exact .inr (.inl ⟨Bool.eq_false_iff.mpr some, room, rfl, rfl⟩)
  · cases taken
    exact .inr (.inr ⟨Bool.eq_false_iff.mpr some, Nat.not_lt.mp room, rfl, rfl⟩)

/-- What becomes of a terminal report: appended, or kept as the terminal pending (R93). -/
theorem terminalTaken_cases (taken : terminalTaken h tag r q e.terminal = (q', terminal)) :
    (q.notices.length < 16 ∧ q' = appended h tag r q ∧ terminal = e.terminal) ∨
      (16 ≤ q.notices.length ∧ q' = q ∧ terminal = some r) := by
  unfold terminalTaken at taken
  split_ifs at taken with room
  · cases taken
    exact .inl ⟨room, rfl, rfl⟩
  · cases taken
    exact .inr ⟨Nat.not_lt.mp room, rfl, rfl⟩

theorem mergedInto_keeps (h : Handle) (r : Report) (n : Notice) :
    (mergedInto h r n).handle = n.handle ∧ (mergedInto h r n).seq = n.seq ∧ (mergedInto h r n).delivered = n.delivered ∧
      (mergedInto h r n).report.reason = n.report.reason := by
  unfold mergedInto
  split <;> simp

theorem mergedInto_of_closed {n : Notice} (closed : isOpen n = false) : mergedInto h r n = n := by
  have other : isOpenFor h n = false := by rw [isOpenFor, Bool.and_assoc, ← isOpen, closed, Bool.and_false]
  simp [mergedInto, other]

theorem noticesOf_merged (g : Handle) (q : NoticeQueue) :
    noticesOf g { q with notices := q.notices.map (mergedInto h r) } = (noticesOf g q).map (mergedInto h r) := by
  simp only [noticesOf, List.filter_map]
  congr 2
  funext n
  simp

theorem queueStep_merged (h : Handle) (r : Report) (q : NoticeQueue) :
    QueueStep h q { q with notices := q.notices.map (mergedInto h r) } where
  order := fun ok => ok.map (mergedInto_keeps h r)
  grows := by simp
  handles := fun n hn => by
    obtain ⟨m, hm, rfl⟩ := List.mem_map.mp hn
    exact .inr ⟨m, hm, by simp⟩
  others := fun g other => by
    rw [noticesOf_merged]
    refine (List.map_congr_left fun n hn => ?_).trans (List.map_id _)
    have away : n.handle ≠ h := (mem_noticesOf.mp hn).2 ▸ other
    simp [mergedInto, isOpenFor, away]

/-- An occurrence is taken into the queue or into the pending summary (R92). -/
theorem queueStep_occurrenceTaken (taken : occurrenceTaken h tag r q e.summary = (q', summary)) : QueueStep h q q' := by
  rcases occurrenceTaken_cases taken with ⟨-, rfl, -⟩ | ⟨closed, room, rfl, -⟩ | ⟨-, -, rfl, -⟩
  · exact queueStep_merged h r q
  · exact queueStep_appended room fun _ => closed
  · exact .refl h _

theorem queueStep_terminalTaken (reason : r.reason ≠ .fired)
    (taken : terminalTaken h tag r q e.terminal = (q', terminal)) : QueueStep h q q' := by
  rcases terminalTaken_cases taken with ⟨room, rfl, -⟩ | ⟨-, rfl, -⟩
  · exact queueStep_appended room fun fired => absurd fired reason
  · exact .refl h _

/-- A notice joins the notices of an entry with notify YES. -/
theorem EntryOk.appended (ok : EntryOk (noticesOf h q) e) (notify : e.notify = true)
    (waits : r.reason = .fired → e.summary = none)
    (last : r.reason ≠ .fired → isEnded e = true ∧ r.fires = 0) : EntryOk (noticesOf h (appended h tag r q)) e := by
  rw [noticesOf_appended, if_pos rfl]
  refine ⟨ok.period, ok.missed, ok.summary, ok.terminal, fun silent => by simp [notify] at silent, fun some => ?_,
    fun n hn reason => ?_⟩
  · have other : r.reason ≠ .fired := fun fired => some (waits fired)
    rw [List.any_append, ok.waits some]
    simp [isOpen, newNotice, other]
  · rcases List.mem_append.mp hn with old | new
    · exact ok.last n old reason
    · rw [List.mem_singleton.mp new] at reason ⊢
      exact last reason

/-- The record and the notices of an entry with notify YES after it took an occurrence (R92). -/
theorem EntryOk.occurrenceTaken (ok : EntryOk (noticesOf h q) e) (fired : r.reason = .fired) (notify : e.notify = true)
    (kept : q.notices.length < 16 → e.summary = none) (taken : occurrenceTaken h tag r q e.summary = (q', summary)) :
    EntryOk (noticesOf h q') { e with summary := summary } := by
  have loud : ∀ {P : Prop}, e.notify = false → P := fun silent => by simp [notify] at silent
  rcases occurrenceTaken_cases taken with ⟨-, rfl, rfl⟩ | ⟨closed, room, rfl, rfl⟩ | ⟨closed, -, rfl, rfl⟩
  · rw [noticesOf_merged]
    refine ⟨ok.period, ok.missed, ok.summary, ok.terminal, loud, fun some => ?_, fun n hn reason => ?_⟩
    · rw [List.any_map]
      refine Eq.trans (congrArg _ ?_) (ok.waits some)
      funext n
      simp [isOpen, mergedInto_keeps]
    · obtain ⟨m, hm, rfl⟩ := List.mem_map.mp hn
      rw [(mergedInto_keeps h r m).2.2.2] at reason
      rw [mergedInto_of_closed (by simp [isOpen, reason])]
      exact ok.last m hm reason
  · exact ok.appended notify (fun _ => kept room) fun other => absurd fired other
  · refine ⟨ok.period, ok.missed, fun x same => ?_, ok.terminal, loud, fun _ => closed, ok.last⟩
    cases same
    cases before : e.summary with
    | none => exact fired
    | some x => simpa using ok.summary x before

/-- The record and the notices of an ENDED entry with notify YES after it took its terminal report (R93). -/
theorem EntryOk.terminalTaken (ok : EntryOk (noticesOf h q) e) (reason : r.reason ≠ .fired) (none : r.fires = 0)
    (notify : e.notify = true) (ended : isEnded e = true)
    (taken : terminalTaken h tag r q e.terminal = (q', terminal)) :
    EntryOk (noticesOf h q') { e with terminal := terminal } := by
  rcases terminalTaken_cases taken with ⟨room, rfl, rfl⟩ | ⟨full, rfl, rfl⟩
  · exact ok.appended notify (fun fired => absurd fired reason) fun _ => ⟨ended, none⟩
  · refine ⟨ok.period, ok.missed, ok.summary, fun x same => ?_, fun silent => by simp [notify] at silent, ok.waits,
      ok.last⟩
    cases same
    exact ⟨reason, none, ended⟩

end Taken

end Sys2Proof.Machine
end

section
/-! PROOFS. What the work of the AGU and the NTU keeps of the records, the queues, the agenda and the lines: a part whose
records are tidy stays tidy (R48, R59, R88, R96, R135 to R138, R142). -/

-- One proof after the other: the memory limit of the check bounds the threads of Lean.
set_option Elab.async false

namespace Sys2Proof.Machine

/-! ### The records of all entries -/

/-- Every entry record and its notices stand together, and every queue holds notices of its own port's slots (R48, R88). -/
structure Records (s : State) : Prop where
  entries : ∀ h e, slot s h = some e → EntryOk (noticesOf h (s.queues.get e.owner)) e
  queues : ∀ p, QueueInOrder (s.queues.get p)
  owned : ∀ p, ∀ n ∈ (s.queues.get p).notices, ∃ e, slot s n.handle = some e ∧ e.owner = p

/-- While the queue of a port has room no entry of it has a pending part (R96). -/
def RoomKept (p : Port) (s : State) : Prop :=
  hasRoom s p = true → ∀ h e, slot s h = some e → e.owner = p → e.summary = none ∧ e.terminal = none

theorem hasReference_iff (s : State) (h : Handle) (e : Entry) :
    hasReference s h e = true ↔ noticesOf h (s.queues.get e.owner) ≠ [] ∨ e.summary ≠ none ∨ e.terminal ≠ none := by
  rw [← Bool.not_eq_false, hasReference_eq_false_iff]
  have none_left : noticesOf h (s.queues.get e.owner) = [] ↔ ∀ n ∈ (s.queues.get e.owner).notices, n.handle ≠ h := by
    simp [noticesOf]
  rw [← none_left]
  tauto

/-- The record clauses of a part in order, per handle and per port (R28, R48, R49, R88 to R96). -/
theorem records_iff (s : State) :
    (EntriesInOrder s ∧ QueuesInOrder s ∧ PendingWaitsForRoom s) ↔ Records s ∧ ∀ p, RoomKept p s := by
  constructor
  · rintro ⟨entries, queues, waits⟩
    refine ⟨⟨fun h e at_h => ?_, fun p => (queues p).1, fun p n hn => ?_⟩, fun p room h e at_h own => ?_⟩
    · obtain ⟨wall, elapsed, missed, summary, terminal, silent⟩ := entries h e at_h
      refine ⟨⟨wall, elapsed⟩, missed, summary, terminal, fun off => ?_, fun some => ?_, fun n hn reason => ?_⟩
      · have alone := (hasReference_eq_false_iff s h e).mp (silent off)
        exact ⟨by simpa [noticesOf] using alone.1, alone.2⟩
      · rw [← any_isOpenFor]
        exact (waits h e at_h).2 some
      · obtain ⟨inQueue, rfl⟩ := mem_noticesOf.mp hn
        obtain ⟨e', at_h', -, last⟩ := (queues e.owner).2 n inQueue
        rw [at_h] at at_h'
        cases at_h'
        exact last reason
    · obtain ⟨e, at_h, own, -⟩ := (queues p).2 n hn
      exact ⟨e, at_h, own⟩
    · subst own
      exact (waits h e at_h).1 room
  · rintro ⟨records, room⟩
    refine ⟨fun h e at_h => ?_, fun p => ⟨records.queues p, fun n hn => ?_⟩, fun h e at_h => ?_⟩
    · have ok := records.entries h e at_h
      refine ⟨ok.period.1, ok.period.2, ok.missed, ok.summary, ok.terminal, fun off => ?_⟩
      obtain ⟨empty, summary, terminal⟩ := ok.silent off
      rw [hasReference_eq_false_iff]
      exact ⟨by simpa [noticesOf] using empty, summary, terminal⟩
    · obtain ⟨e, at_h, own⟩ := records.owned p n hn
      subst own
      exact ⟨e, at_h, rfl, (records.entries _ e at_h).last n (mem_noticesOf.mpr ⟨hn, rfl⟩)⟩
    · refine ⟨fun free => room e.owner free h e at_h rfl, fun some => ?_⟩
      rw [any_isOpenFor]
      exact (records.entries h e at_h).waits some

/-! ### Work on one entry keeps the records -/

section Work
variable {p : Port} {h : Handle} {b : Bool} {q : NoticeQueue} {x : Option Entry} {s t : State} {e : Entry}

/-- What becomes of one slot and of its owner's queue keeps the records: the slot is freed without a notice of it, or holds
a record of the same owner that stands together with its notices. -/
theorem Records.of_work (records : Records s) (work : EntryWork p h b q x s t) (at_h : slot s h = some e)
    (own : e.owner = p) (step : QueueStep h (s.queues.get p) q)
    (here : (x = none ∧ noticesOf h q = []) ∨ ∃ e', x = some e' ∧ e'.owner = p ∧ EntryOk (noticesOf h q) e') : Records t := by
  have queue : ∀ r, t.queues.get r = if r = p then q else s.queues.get r := fun r => by rw [work.queues, PerPort.get_set]
  have other_notices : ∀ g r, g ≠ h → noticesOf g (t.queues.get r) = noticesOf g (s.queues.get r) := fun g r other => by
    rw [queue]
    split
    · next same => rw [same, step.others g other]
    · rfl
  refine ⟨fun g e' at_g => ?_, fun r => ?_, fun r n hn => ?_⟩
  · by_cases same : g = h
    · subst same
      rw [work.here] at at_g
      rcases here with ⟨none, -⟩ | ⟨e'', some, owner, ok⟩
      · simp [none] at at_g
      · cases some.symm.trans at_g
        rwa [queue, if_pos owner]
    · rw [work.others g same] at at_g
      rw [other_notices g _ same]
      exact records.entries g e' at_g
  · rw [queue]
    split
    · exact step.order (records.queues p)
    · exact records.queues r
  · by_cases mine : n.handle = h
    · by_cases port : r = p
      · subst port
        rw [queue, if_pos rfl] at hn
        rcases here with ⟨-, none⟩ | ⟨e'', rfl, owner, -⟩
        · exact absurd (mem_noticesOf.mpr ⟨hn, mine⟩) (by simp [none])
        · exact ⟨e'', by rw [mine, work.here], owner⟩
      · rw [queue, if_neg port] at hn
        obtain ⟨e'', at_n, owner⟩ := records.owned r n hn
        rw [mine, at_h] at at_n
        cases at_n
        exact absurd (owner.symm.trans own) port
    · rw [work.others _ mine]
      rw [queue] at hn
      by_cases port : r = p
      · rw [if_pos port] at hn
        rcases step.handles n hn with same | ⟨m, hm, same⟩
        · exact absurd same mine
        · rw [port, ← same]
          exact records.owned p m hm
      · rw [if_neg port] at hn
        exact records.owned r n hn

/-- A queue that grows keeps the pending parts waiting (R96). -/
theorem RoomKept.of_work {r : Port} (kept : RoomKept r s) (work : EntryWork p h b q x s t)
    (step : QueueStep h (s.queues.get p) q)
    (here : r = p → q.notices.length < 16 → ∀ e', x = some e' → e'.owner = p → e'.summary = none ∧ e'.terminal = none)
    (owner : ∀ e', x = some e' → e'.owner = p) : RoomKept r t := by
  intro room g e' at_g own
  have before : hasRoom s r = true := by
    rw [hasRoom_iff_lt] at room ⊢
    rw [work.queues, PerPort.get_set] at room
    split at room
    · next same =>
      rw [same]
      exact step.grows.trans_lt room
    · exact room
  by_cases same : g = h
  · rw [same, work.here] at at_g
    have port : r = p := own.symm.trans (owner e' at_g)
    rw [hasRoom_iff_lt, work.queues, port, PerPort.get_set_self] at room
    exact here port room e' at_g (owner e' at_g)
  · rw [work.others g same] at at_g
    exact kept before g e' at_g own

/-- Every ENDED entry keeps a reference (R48). -/
theorem EndedHasReference.of_work (references : EndedHasReference s) (work : EntryWork p h b q x s t)
    (step : QueueStep h (s.queues.get p) q) (owner : ∀ e', x = some e' → e'.owner = p)
    (here : ∀ e', x = some e' → isEnded e' = true → noticesOf h q ≠ [] ∨ e'.summary ≠ none ∨ e'.terminal ≠ none) :
    EndedHasReference t := by
  intro g e' at_g ended
  rw [hasReference_iff]
  by_cases same : g = h
  · subst same
    rw [work.here] at at_g
    rw [owner e' at_g, work.queue]
    exact here e' at_g ended
  · rw [work.others g same] at at_g
    have before := references g e' at_g ended
    rw [hasReference_iff] at before
    rw [work.queues, PerPort.get_set]
    split
    · next port => rwa [step.others g same, ← port]
    · exact before

end Work

end Sys2Proof.Machine
end

section
/-! PROOFS. The agenda stays in order (R59). -/

-- One proof after the other: the memory limit of the check bounds the threads of Lean.
set_option Elab.async false

namespace Sys2Proof.Machine

/-! ### The order of the agenda -/

theorem agendaBefore_iff (d : Time) (h : Handle) (d' : Time) (g : Handle) :
    agendaBefore d h d' g = true ↔ d < d' ∨ (d = d' ∧ h < g) := by simp [agendaBefore]

theorem agendaBefore_trans {d d' d'' : Time} {h g k : Handle} (first : agendaBefore d h d' g = true)
    (second : agendaBefore d' g d'' k = true) : agendaBefore d h d'' k = true := by
  rw [agendaBefore_iff, BitVec.lt_def, ← BitVec.toNat_inj, Fin.lt_def] at *
  omega

theorem agendaBefore_total {d d' : Time} {h g : Handle} (other : h ≠ g) (after : agendaBefore d h d' g = false) :
    agendaBefore d' g d h = true := by
  have different : h.val ≠ g.val := fun same => other (Fin.ext same)
  rw [← Bool.not_eq_true] at after
  rw [agendaBefore_iff, BitVec.lt_def, ← BitVec.toNat_inj, Fin.lt_def] at *
  omega

/-- Two handles stand in agenda order under these dues (R59). -/
def standsBefore (dues : Handle → Option Time) (g h : Handle) : Prop :=
  ∀ d d', dues g = some d → dues h = some d' → agendaBefore d g d' h = true

/-- A list holds exactly the handles that have a due, each once, in agenda order (R59). -/
structure AgendaOf (dues : Handle → Option Time) (l : List Handle) : Prop where
  nodup : l.Nodup
  mem : ∀ h, h ∈ l ↔ (dues h).isSome = true
  ordered : l.Pairwise (standsBefore dues)

/-- The due of a slot, present while it holds an ARMED entry. -/
def dueAt (s : State) (h : Handle) : Option Time := (slot s h).bind dueOf

theorem dueAt_eq_some {s : State} {h : Handle} {due : Time} :
    dueAt s h = some due ↔ ∃ e, slot s h = some e ∧ e.status = .armed due := by
  rw [dueAt, Option.bind_eq_some_iff]
  refine exists_congr fun e => and_congr_right fun _ => ?_
  cases status : e.status <;> simp [dueOf, status]

theorem agendaInOrder_iff (s : State) : AgendaInOrder s ↔ AgendaOf (dueAt s) s.agu.agenda := by
  have armed : ∀ h, (dueAt s h).isSome = true ↔ ∃ e due, slot s h = some e ∧ e.status = .armed due := fun h => by
    rw [Option.isSome_iff_exists, exists_comm]
    simp only [dueAt_eq_some]
  constructor
  · rintro ⟨nodup, mem, ordered⟩
    exact ⟨nodup, fun h => (mem h).trans (armed h).symm, ordered⟩
  · rintro ⟨nodup, mem, ordered⟩
    exact ⟨nodup, fun h => (mem h).trans (armed h), ordered⟩

theorem AgendaInOrder.congr {s t : State} (ok : AgendaInOrder s) (agenda : t.agu.agenda = s.agu.agenda)
    (dues : ∀ h, dueAt t h = dueAt s h) : AgendaInOrder t := by
  rw [agendaInOrder_iff] at *
  rwa [agenda, funext dues]

/-! ### Writing a slot (R59) -/

theorem standsBefore_insert {store : Vector (Option Entry) 96} {due : Time} {h : Handle} {l : List Handle}
    (here : (store.get h).bind dueOf = some due) (armed : ∀ g ∈ l, ((store.get g).bind dueOf).isSome = true)
    (away : h ∉ l) (ordered : l.Pairwise (standsBefore fun g => (store.get g).bind dueOf)) :
    (placeInAgenda store due h l).Pairwise (standsBefore fun g => (store.get g).bind dueOf) := by
  induction l with
  | nil => simp [placeInAgenda]
  | cons g l ih =>
    obtain ⟨d, at_g⟩ := Option.isSome_iff_exists.mp (armed g (by simp))
    obtain ⟨first, rest⟩ := List.pairwise_cons.mp ordered
    have different : h ≠ g := fun same => away (by simp [same])
    simp only [placeInAgenda, at_g]
    split
    · next before =>
      refine List.pairwise_cons.mpr ⟨fun k hk => ?_, ordered⟩
      intro dh dk at_h at_k
      cases here.symm.trans at_h
      rcases List.mem_cons.mp hk with rfl | later
      · cases at_g.symm.trans at_k
        exact before
      · exact agendaBefore_trans before (first k later d dk at_g at_k)
    · next after =>
      refine List.pairwise_cons.mpr ⟨fun k hk => ?_,
        ih (fun k hk => armed k (by simp [hk])) (fun inside => away (by simp [inside])) rest⟩
      rcases (mem_placeInAgenda store due h k l).mp hk with rfl | later
      · intro dg dk at_g' at_k
        cases here.symm.trans at_k
        cases at_g.symm.trans at_g'
        exact agendaBefore_total different (Bool.not_eq_true _ ▸ after)
      · exact first k later

theorem nodup_placeInAgenda {store : Vector (Option Entry) 96} {due : Time} {h : Handle} {l : List Handle}
    (away : h ∉ l) (nodup : l.Nodup) : (placeInAgenda store due h l).Nodup := by
  induction l with
  | nil => simp [placeInAgenda]
  | cons g l ih =>
    obtain ⟨outside, rest⟩ := List.nodup_cons.mp nodup
    have different : h ≠ g := fun same => away (by simp [same])
    have later : (g :: placeInAgenda store due h l).Nodup := by
      refine List.nodup_cons.mpr ⟨fun inside => ?_, ih (fun inside => away (by simp [inside])) rest⟩
      rcases (mem_placeInAgenda store due h g l).mp inside with same | old
      · exact different same.symm
      · exact outside old
    unfold placeInAgenda
    split
    · split
      · exact List.nodup_cons.mpr ⟨away, nodup⟩
      · exact later
    · exact later

theorem dueAt_putSlot (h g : Handle) (x : Option Entry) (s : State) :
    dueAt (putSlot h x s) g = if g = h then x.bind dueOf else dueAt s g := by
  rw [dueAt, slot_putSlot]
  split <;> rfl

theorem AgendaInOrder.putSlot {s : State} (ok : AgendaInOrder s) (h : Handle) (x : Option Entry) :
    AgendaInOrder (putSlot h x s) := by
  obtain ⟨nodup, mem, ordered⟩ := (agendaInOrder_iff s).mp ok
  have others : (s.agu.agenda.filter fun g => g != h).Pairwise (standsBefore (dueAt (Machine.putSlot h x s))) := by
    refine List.Pairwise.imp_of_mem ?_ (ordered.filter _)
    intro g k hg hk before d d' at_g at_k
    have away : ∀ j ∈ s.agu.agenda.filter (fun g => g != h), j ≠ h := fun j hj => by simpa using (List.mem_filter.mp hj).2
    rw [dueAt_putSlot, if_neg (away g hg)] at at_g
    rw [dueAt_putSlot, if_neg (away k hk)] at at_k
    exact before d d' at_g at_k
  have absent : h ∉ s.agu.agenda.filter fun g => g != h := by simp
  rw [agendaInOrder_iff]
  refine ⟨?_, fun g => ?_, ?_⟩
  · simp only [Machine.putSlot, State.setAgu_agu]
    split
    · exact nodup_placeInAgenda absent (nodup.filter _)
    · exact nodup.filter _
  · rw [mem_agenda_putSlot, dueAt_putSlot]
    by_cases same : g = h
    · rw [if_pos same, if_pos same]
    · rw [if_neg same, if_neg same, mem]
  · cases new : x.bind dueOf with
    | none =>
      have agenda : (Machine.putSlot h x s).agu.agenda = s.agu.agenda.filter fun g => g != h := by
        simp only [Machine.putSlot, State.setAgu_agu, new]
      rw [agenda]
      exact others
    | some due =>
      have agenda : (Machine.putSlot h x s).agu.agenda =
          placeInAgenda (Machine.putSlot h x s).agu.store due h (s.agu.agenda.filter fun g => g != h) := by
        simp only [Machine.putSlot, State.setAgu_agu, new]
      rw [agenda]
      refine standsBefore_insert ?_ (fun g hg => ?_) absent others
      · exact ((dueAt_putSlot h h x s).trans (if_pos rfl)).trans new
      · obtain ⟨inside, away⟩ := List.mem_filter.mp hg
        have away : g ≠ h := by simpa using away
        refine Eq.trans (congrArg Option.isSome ((dueAt_putSlot h g x s).trans (if_neg away))) ?_
        exact (mem g).mp inside

end Sys2Proof.Machine
end

section
/-! PROOFS. The work of the AGU and the NTU keeps a tidy part tidy: its records, queues, agenda, attention lines and strobe
lines (R48, R59, R88, R96, R135 to R138, R141, R142). -/

-- One proof after the other: the memory limit of the check bounds the threads of Lean.
set_option Elab.async false

namespace Sys2Proof.Machine

/-! ### Attention lines (R135 to R138) -/

/-- The attention line of a port stands as its mode, its condition and the supply state give (R135 to R138). -/
def LineInOrder (p : Port) (s : State) : Prop :=
  ((s.attn.get p).line = .driven ↔
      s.spm.supply = .main ∧
        (match (s.attn.get p).mode with
          | .level => attnCondition s p = true
          | .pulse => (s.attn.get p).pulseEnd ≠ none)) ∧
    ∀ e, (s.attn.get p).pulseEnd = some e →
      s.spm.supply = .main ∧ (s.attn.get p).mode = .pulse ∧ attnCondition s p = true ∧
        (remaining e s.tbu.mono).toNat ≤ 64

theorem LineInOrder.congr {p : Port} {s t : State} (ok : LineInOrder p s) (attn : t.attn.get p = s.attn.get p)
    (condition : attnCondition t p = attnCondition s p) (spm : t.spm = s.spm) (mono : t.tbu.mono = s.tbu.mono) :
    LineInOrder p t := by
  unfold LineInOrder at *
  rwa [attn, condition, spm, mono]

theorem pulse_remaining (m : Mono) : (remaining (m + 64) m).toNat = 64 := by
  rw [remaining]
  bv_omega

/-- A line that answers an event stays in order (R135 to R138). -/
theorem LineInOrder.of_answers {p : Port} {s t : State} (ok : LineInOrder p s) (answers : lineAnswers p s t)
    (mode : (t.attn.get p).mode = (s.attn.get p).mode) (spm : t.spm = s.spm) (mono : t.tbu.mono = s.tbu.mono) :
    LineInOrder p t := by
  obtain ⟨driven, pulses⟩ := ok
  obtain ⟨outside, level, pulse⟩ := answers
  unfold LineInOrder
  rw [spm, mono]
  by_cases main : s.spm.supply = .main
  · cases is : (s.attn.get p).mode with
    | level =>
      obtain ⟨follows, none⟩ := level main (mode.trans is)
      simp [mode, is, main, none, follows]
    | pulse =>
      obtain ⟨rise, fall, steady⟩ := pulse main (mode.trans is)
      rw [mode, is]
      simp only [is] at driven pulses
      cases before : attnCondition s p <;> cases after : attnCondition t p
      · obtain ⟨line, end_⟩ := steady (before.trans after.symm)
        rw [line, end_]
        exact ⟨driven, fun e running => absurd (pulses e running).2.2.1 (by simp [before])⟩
      · obtain ⟨line, end_⟩ := rise before after
        rw [line, end_]
        exact ⟨by simp [main], fun e same => by cases same; exact ⟨main, rfl, rfl, (pulse_remaining _).le⟩⟩
      · obtain ⟨line, end_⟩ := fall before after
        simp [line, end_]
      · obtain ⟨line, end_⟩ := steady (before.trans after.symm)
        rw [line, end_]
        exact ⟨driven, fun e running => ⟨main, rfl, rfl, (pulses e running).2.2.2⟩⟩
  · obtain ⟨line, end_⟩ := outside main
    have dark : (s.attn.get p).line ≠ .driven := fun lit => main (driven.mp lit).1
    rw [line, end_]
    exact ⟨⟨fun lit => absurd lit dark, fun h => absurd h.1 main⟩, fun e running => absurd (pulses e running).1 main⟩

/-! ### A tidy part -/

/-- The records, the queues, the agenda and the lines of a part in order. -/
structure Tidy (s : State) : Prop where
  records : Records s
  room : ∀ p, RoomKept p s
  references : EndedHasReference s
  agenda : AgendaInOrder s
  lines : LinesFollow s
  strobes : StrobesInOrder s

/-- Work of the AGU and the NTU that keeps a tidy part tidy, and leaves in each slot an entry that it held before, or none
(R29, R48). -/
structure TidyWork (s t : State) : Prop where
  work : AgendaWork s t
  tidy : Tidy s → Tidy t
  inherits : Tidy s → ∀ h e', slot t h = some e' → ∃ e, slot s h = some e ∧ sameFixedFields e' e

theorem TidyWork.refl (s : State) : TidyWork s s := ⟨.refl s, id, fun _ _ e at_h => ⟨e, at_h, .refl e⟩⟩

theorem TidyWork.trans {s t u : State} (a : TidyWork s t) (b : TidyWork t u) : TidyWork s u where
  work := a.work.trans b.work
  tidy := b.tidy ∘ a.tidy
  inherits := fun ok h e' at_h => by
    obtain ⟨x, at_t, same⟩ := b.inherits (a.tidy ok) h e' at_h
    obtain ⟨e, at_s, same'⟩ := a.inherits ok h x at_t
    exact ⟨e, at_s, same.trans same'⟩

theorem TidyWork.foldl {α : Type} (f : State → α → State) (l : List α) (s : State) (step : ∀ s x, TidyWork s (f s x)) :
    TidyWork s (l.foldl f s) :=
  foldl_keeps (P := fun t => TidyWork s t) f l s (fun t x h => h.trans (step t x)) (.refl s)

/-- Work that reports at most at one port keeps every attention line in order (R135 to R138). -/
theorem linesFollow_of_lineWork {p : Port} {b : Bool} {s t : State} (ok : LinesFollow s) (line : LineWork p b s t)
    (queues : ∀ r, r ≠ p → t.queues.get r = s.queues.get r) : LinesFollow t := by
  obtain ⟨tbu, spm⟩ := line.work.tbu_spm
  have mono : t.tbu.mono = s.tbu.mono := congrArg Tbu.mono tbu
  intro r
  by_cases port : r = p
  · subst port
    cases reported : b with
    | true => exact LineInOrder.of_answers (ok r) (line.answers reported).2 (line.work.sameSetup r).2.2.2 spm mono
    | false =>
      obtain ⟨attn, source⟩ := line.idle reported
      exact LineInOrder.congr (ok r) (by rw [attn]) (attnCondition_congr (by rw [attn]) (by rw [attn]) source) spm mono
  · have attn := line.others r port
    exact LineInOrder.congr (ok r) attn
      (attnCondition_congr (by rw [attn]) (by rw [attn]) (by simp [noticeSource, queues r port])) spm mono

theorem linesFollow_of_line {p : Port} {h : Handle} {b : Bool} {q : NoticeQueue} {x : Option Entry} {s t : State}
    (ok : LinesFollow s) (work : EntryWork p h b q x s t) : LinesFollow t :=
  linesFollow_of_lineWork ok work.line fun r other => by rw [work.queues, PerPort.get_set_ne _ _ other]

theorem strobesInOrder_congr {s t : State} (ok : StrobesInOrder s) (strobes : t.strobes = s.strobes)
    (map : t.pru.strobeMap = s.pru.strobeMap) (spm : t.spm = s.spm) (mono : t.tbu.mono = s.tbu.mono) : StrobesInOrder t := by
  intro l e pulsing
  rw [strobes] at pulsing
  rw [spm, map, mono]
  exact ok l e pulsing

/-- What an entry's record becomes where its slot is kept. -/
structure HereOk (e : Entry) (own : List Notice) (room : Bool) (e' : Entry) : Prop where
  fixed : sameFixedFields e' e
  ok : EntryOk own e'
  waits : room = true → e'.summary = none ∧ e'.terminal = none
  reference : isEnded e' = true → own ≠ [] ∨ e'.summary ≠ none ∨ e'.terminal ≠ none

/-- Work on one entry keeps a tidy part tidy where it keeps the agenda and leaves a record that stands together with its
notices. -/
theorem TidyWork.of_entryWork {h : Handle} {b : Bool} {q : NoticeQueue} {x : Option Entry} {s t : State} {e : Entry}
    (work : EntryWork e.owner h b q x s t) (at_h : slot s h = some e) (agenda : AgendaInOrder s → AgendaInOrder t)
    (step : QueueStep h (s.queues.get e.owner) q)
    (here : Tidy s → (x = none ∧ noticesOf h q = []) ∨
      ∃ e', x = some e' ∧ HereOk e (noticesOf h q) (decide (q.notices.length < 16)) e') : TidyWork s t where
  work := work.line.work
  tidy := fun tidy => by
    have kept : ∀ e', x = some e' → HereOk e (noticesOf h q) (decide (q.notices.length < 16)) e' := fun e' some => by
      rcases here tidy with ⟨none, -⟩ | ⟨e'', same, ok⟩
      · simp [none] at some
      · cases some.symm.trans same
        exact ok
    have owner : ∀ e', x = some e' → e'.owner = e.owner := fun e' some => (kept e' some).fixed.1
    obtain ⟨tbu, -, pru, -, spm, -⟩ := work.line.work
    refine ⟨tidy.records.of_work work at_h rfl step ?_, fun r => (tidy.room r).of_work work step
      (fun _ room e' some _ => (kept e' some).waits (by simpa using room)) owner,
      tidy.references.of_work work step owner fun e' some => (kept e' some).reference, agenda tidy.agenda,
      linesFollow_of_line tidy.lines work, strobesInOrder_congr tidy.strobes work.strobes (by rw [pru]) spm (by rw [tbu])⟩
    rcases here tidy with gone | ⟨e', same, ok⟩
    · exact .inl gone
    · exact .inr ⟨e', same, ok.fixed.1, ok.ok⟩
  inherits := fun tidy g e' at_g => by
    by_cases same : g = h
    · subst same
      rw [work.here] at at_g
      rcases here tidy with ⟨none, -⟩ | ⟨e'', some, ok⟩
      · simp [none] at at_g
      · cases some.symm.trans at_g
        exact ⟨e, at_h, ok.fixed⟩
    · rw [work.others g same] at at_g
      exact ⟨e', at_g, .refl e'⟩

end Sys2Proof.Machine
end

section
/-! PROOFS. Firings and visits keep a tidy part tidy (R48, R59, R61, R70, R88, R96). -/

-- One proof after the other: the memory limit of the check bounds the threads of Lean.
set_option Elab.async false

namespace Sys2Proof.Machine

/-! ### States that agree in the store and the queues -/

theorem Records.congr {s t : State} (ok : Records s) (slots : ∀ h, slot t h = slot s h) (queues : t.queues = s.queues) :
    Records t :=
  ⟨fun h e at_h => by rw [queues]; exact ok.entries h e (slots h ▸ at_h), fun p => by rw [queues]; exact ok.queues p,
    fun p n hn => by
      rw [queues] at hn
      obtain ⟨e, at_n, own⟩ := ok.owned p n hn
      exact ⟨e, by rw [slots, at_n], own⟩⟩

theorem RoomKept.congr {p : Port} {s t : State} (ok : RoomKept p s) (slots : ∀ h, slot t h = slot s h)
    (queue : t.queues.get p = s.queues.get p) : RoomKept p t := fun room h e at_h =>
  ok (by rwa [hasRoom, queue] at room) h e (slots h ▸ at_h)

theorem EndedHasReference.congr {s t : State} (ok : EndedHasReference s) (slots : ∀ h, slot t h = slot s h)
    (queues : t.queues = s.queues) : EndedHasReference t := fun h e at_h ended => by
  have before := ok h e (slots h ▸ at_h) ended
  rw [hasReference_iff] at before ⊢
  rwa [queues]

theorem Tidy.congr {s t : State} (ok : Tidy s) (store : t.agu.store = s.agu.store) (agenda : t.agu.agenda = s.agu.agenda)
    (queues : t.queues = s.queues) (lines : LinesFollow t) (strobes : StrobesInOrder t) : Tidy t :=
  have slots : ∀ h, slot t h = slot s h := slot_congr store
  ⟨ok.records.congr slots queues, fun p => (ok.room p).congr slots (by rw [queues]), ok.references.congr slots queues,
    ok.agenda.congr agenda fun h => by rw [dueAt, dueAt, slots], lines, strobes⟩

theorem linesFollow_congr {s t : State} (ok : LinesFollow s) (attn : t.attn = s.attn) (queues : t.queues = s.queues)
    (spm : t.spm = s.spm) (mono : t.tbu.mono = s.tbu.mono) : LinesFollow t := fun p =>
  LineInOrder.congr (ok p) (by rw [attn])
    (attnCondition_congr (by rw [attn]) (by rw [attn]) (by simp [noticeSource, queues])) spm mono

/-! ### A pulse request (R142) -/

theorem strobesInOrder_requestPulse {s : State} (ok : StrobesInOrder s) (a : Option StrobeAction) (owner : Port) :
    StrobesInOrder (requestPulse a owner s).1 := by
  cases a with
  | none => exact ok
  | some a =>
    by_cases driven : (s.pru.strobeMap.get a.line).owner = some owner ∧ s.spm.supply = .main
    · rw [requestPulse_driven driven.1 driven.2]
      intro l e pulsing
      by_cases same : l = a.line
      · subst same
        simp only [State.setStrobe_strobes, PerLine.get_set_self, StrobeLine.pulsing.injEq] at pulsing
        refine ⟨driven.2, by simp [driven.1], ?_⟩
        have small := a.width.isLt
        have width : (remaining (s.tbu.mono + a.width.setWidth 48) s.tbu.mono).toNat ≤ 255 := by
          rw [remaining, width_remaining]
          omega
        subst pulsing
        unfold requestedEnd
        cases before : s.strobes.get a.line with
        | idle => exact width
        | pulsing present =>
          have short := (ok a.line present before).2.2
          have later := (laterEnd_spec s.tbu.mono present (s.tbu.mono + a.width.setWidth 48)).2
          simp only [remaining] at short width ⊢
          simp only [State.setStrobe_tbu]
          omega
      · rw [State.setStrobe_strobes, PerLine.get_set_ne _ _ same] at pulsing
        exact ok l e pulsing
    · rw [requestPulse_suppressed (by tauto)]
      exact ok

theorem tidyWork_requestPulse (a : Option StrobeAction) (owner : Port) (s : State) :
    TidyWork s (requestPulse a owner s).1 where
  work := requestPulse_work a owner s
  tidy := fun ok => ok.congr (by simp) (by simp) (by simp)
    (linesFollow_congr ok.lines (by simp) (by simp) (by simp) (by simp)) (strobesInOrder_requestPulse ok.strobes a owner)
  inherits := fun _ h e at_h => ⟨e, by simpa using at_h, .refl e⟩

/-! ### The agenda (R59) -/

section Agenda
variable {s : State} {h : Handle}

theorem agendaInOrder_setStatus (ok : AgendaInOrder s) (st : EntryStatus) : AgendaInOrder (setStatus h st s) := by
  unfold setStatus
  split
  · exact ok.putSlot h _
  · exact ok

theorem agendaInOrder_releaseIfDone (ok : AgendaInOrder s) : AgendaInOrder (releaseIfDone h s) := by
  unfold releaseIfDone
  split
  · split
    · exact ok.putSlot h _
    · exact ok
  · exact ok

/-- Where the agenda stays and each record keeps its status, the agenda stays in order. -/
theorem AgendaInOrder.of_status {t : State} (ok : AgendaInOrder s) (agenda : t.agu.agenda = s.agu.agenda)
    (others : ∀ g, g ≠ h → slot t g = slot s g) {f : Entry → Entry} (status : ∀ e, (f e).status = e.status)
    (here : slot t h = (slot s h).map f) : AgendaInOrder t := by
  refine ok.congr agenda fun g => ?_
  by_cases same : g = h
  · subst same
    rw [dueAt, dueAt, here]
    cases slot s g with
    | none => rfl
    | some e => simp [dueOf, status]
  · rw [dueAt, dueAt, others g same]

theorem agendaInOrder_updateParts (ok : AgendaInOrder s) (f : EntryParts → EntryParts) : AgendaInOrder (updateParts h f s) :=
  ok.of_status (h := h) (f := fun e => e.withParts (f e.parts)) (by simp) (fun g other => by simp [other]) (by simp)
    (by simp)

theorem agendaInOrder_takeOccurrence (ok : AgendaInOrder s) (p : Port) (tag : Half) (r : Report) :
    AgendaInOrder (takeOccurrence p h tag r s) := by
  obtain ⟨-, agenda, -, others, x, here⟩ := takeOccurrence_frame p h tag r s
  exact ok.of_status agenda others (f := fun e => { e with summary := x e }) (fun _ => rfl) here

theorem agendaInOrder_takeTerminal (ok : AgendaInOrder s) (p : Port) (tag : Half) (r : Report) :
    AgendaInOrder (takeTerminal p h tag r s) := by
  obtain ⟨-, agenda, -, others, here⟩ := takeTerminal_frame p h tag r s
  exact ok.of_status agenda others
    (f := fun e => { e with terminal := if hasRoom s p = true then e.terminal else some r }) (fun _ => rfl) here

theorem agendaInOrder_exhaust (ok : AgendaInOrder s) (v : Time) : AgendaInOrder (exhaust h v s) := by
  unfold exhaust
  split
  · refine agendaInOrder_releaseIfDone (agendaInOrder_updateParts ?_ _)
    split
    · exact agendaInOrder_takeTerminal (agendaInOrder_setStatus ok _) _ _ _
    · exact agendaInOrder_setStatus ok _
  · exact ok

theorem agendaInOrder_moveOn (ok : AgendaInOrder s) (sch : Schedule) (due ref v : Time) :
    AgendaInOrder (moveOn h sch due ref v s) := by
  unfold moveOn
  split
  · exact agendaInOrder_setStatus ok _
  · exact agendaInOrder_exhaust ok v

theorem agendaInOrder_advance (ok : AgendaInOrder s) (sch : Schedule) (due ref v : Time) :
    AgendaInOrder (advance h sch due ref v s) := by
  have ended : AgendaInOrder (releaseIfDone h (endEntry h .fired s)) :=
    agendaInOrder_releaseIfDone (agendaInOrder_setStatus ok _)
  cases sch with
  | oneShotWall => exact ended
  | oneShotElapsed => exact ended
  | periodicWall per anchor => exact agendaInOrder_moveOn ok _ due ref v
  | periodicElapsed per => exact agendaInOrder_moveOn ok _ due ref v
  | calendar pat => exact agendaInOrder_moveOn ok _ due ref v

theorem agendaInOrder_skipOneShot (ok : AgendaInOrder s) (v : Time) : AgendaInOrder (skipOneShot h v s) := by
  unfold skipOneShot
  split
  · refine agendaInOrder_releaseIfDone ?_
    split
    · exact agendaInOrder_takeTerminal (agendaInOrder_setStatus ok _) _ _ _
    · exact agendaInOrder_setStatus ok _
  · exact ok

end Agenda

/-! ### What a firing makes of its entry -/

section Here
variable {h : Handle} {e x : Entry} {tag : Half} {r : Report} {q q' : NoticeQueue} {summary terminal : Option Report}
  {own : List Notice} {room : Bool}

/-- A record of an entry stands together with its notices and waits for room; it is ENDED only with a reference. -/
theorem HereOk.withMissed (ok : HereOk e own room x) {m : Half} (none : e.schedule.kind = .oneShot → m = 0) :
    HereOk e own room { x with missed := m } :=
  ⟨ok.fixed, ok.ok.withMissed (by rw [ok.fixed.2.2.1]; exact none), ok.waits, ok.reference⟩

theorem HereOk.withStatus (ok : HereOk e own room x) (armed : isEnded x = false) {st : EntryStatus}
    (reference : isEnded { x with status := st } = true → own ≠ [] ∨ x.summary ≠ none ∨ x.terminal ≠ none) :
    HereOk e own room { x with status := st } :=
  ⟨ok.fixed, ok.ok.withStatus fun ended => by simp [armed] at ended, ok.waits, reference⟩

theorem noticesOf_appended_ne (h : Handle) (tag : Half) (r : Report) (q : NoticeQueue) :
    noticesOf h (appended h tag r q) ≠ [] := by
  rw [noticesOf_appended]
  simp

/-- An entry with notify YES has a reference once it took an occurrence (R48, R92). -/
theorem reference_of_occurrence (taken : occurrenceTaken h tag r q e.summary = (q', summary)) :
    noticesOf h q' ≠ [] ∨ summary ≠ none := by
  rcases occurrenceTaken_cases taken with ⟨some, rfl, -⟩ | ⟨-, -, rfl, -⟩ | ⟨-, -, -, rfl⟩
  · refine .inl fun empty => ?_
    rw [noticesOf_merged, List.map_eq_nil_iff] at empty
    simp [empty] at some
  · exact .inl (noticesOf_appended_ne h tag r q)
  · exact .inr (by simp)

theorem hereOk_occurrence (ok : EntryOk (noticesOf h q) e) (armed : isEnded e = false)
    (kept : q.notices.length < 16 → e.summary = none ∧ e.terminal = none) (fired : r.reason = .fired)
    (notify : e.notify = true) (taken : occurrenceTaken h tag r q e.summary = (q', summary)) :
    HereOk e (noticesOf h q') (decide (q'.notices.length < 16)) { e with summary := summary } where
  fixed := .refl e
  ok := ok.occurrenceTaken fired notify (fun room => (kept room).1) taken
  waits := fun room => by
    have room : q'.notices.length < 16 := by simpa using room
    have before := kept ((queueStep_occurrenceTaken taken).grows.trans_lt room)
    rcases occurrenceTaken_cases taken with ⟨-, -, rfl⟩ | ⟨-, -, -, rfl⟩ | ⟨-, full, rfl, -⟩
    · exact before
    · exact before
    · omega
  reference := fun ended => by
    rw [show isEnded { e with summary := summary } = isEnded e from rfl, armed] at ended
    simp at ended

/-- An ENDED entry with notify YES has a reference once it took its terminal report (R48, R93). -/
theorem hereOk_terminal (ok : EntryOk (noticesOf h q) x) (fixed : sameFixedFields x e)
    (kept : q.notices.length < 16 → x.summary = none ∧ x.terminal = none) (reason : r.reason ≠ .fired) (none : r.fires = 0)
    (notify : x.notify = true) (ended : isEnded x = true) (taken : terminalTaken h tag r q x.terminal = (q', terminal)) :
    HereOk e (noticesOf h q') (decide (q'.notices.length < 16)) { x with terminal := terminal } where
  fixed := fixed
  ok := ok.terminalTaken reason none notify ended taken
  waits := fun room => by
    have room : q'.notices.length < 16 := by simpa using room
    have before := kept ((queueStep_terminalTaken reason taken).grows.trans_lt room)
    rcases terminalTaken_cases taken with ⟨-, -, rfl⟩ | ⟨full, rfl, -⟩
    · exact before
    · omega
  reference := fun _ => by
    rcases terminalTaken_cases taken with ⟨-, rfl, -⟩ | ⟨-, -, rfl⟩
    · exact .inl (noticesOf_appended_ne h tag r q)
    · exact .inr (.inr (by simp))

end Here

end Sys2Proof.Machine
end

section
/-! PROOFS. A firing and a visit keep a tidy part tidy (R61, R70). -/

-- One proof after the other: the memory limit of the check bounds the threads of Lean.
set_option Elab.async false

namespace Sys2Proof.Machine

theorem agendaInOrder_requestPulse (a : Option StrobeAction) (o : Port) (s : State) :
    AgendaInOrder (requestPulse a o s).1 ↔ AgendaInOrder s :=
  ⟨fun ok => ok.congr (by simp) fun g => by rw [dueAt, dueAt, slot_requestPulse],
    fun ok => ok.congr (by simp) fun g => by rw [dueAt, dueAt, slot_requestPulse]⟩

section Fire
variable {h : Handle} {e : Entry} {due v ref : Time} {late : Bool} {s : State}

theorem agendaInOrder_fireEntry (ok : AgendaInOrder s) : AgendaInOrder (fireEntry h v ref late s) := by
  unfold fireEntry
  split
  · split
    · next at_h _ due armed =>
      refine agendaInOrder_advance (agendaInOrder_updateParts ?_ _) _ due ref v
      split
      · exact agendaInOrder_takeOccurrence ((agendaInOrder_requestPulse _ _ s).mpr ok) _ _ _
      · exact (agendaInOrder_requestPulse _ _ s).mpr ok
    · exact ok
  · exact ok

/-- What a tidy part knows of one entry. -/
theorem Tidy.waits (tidy : Tidy s) (at_h : slot s h = some e) (room : (s.queues.get e.owner).notices.length < 16) :
    e.summary = none ∧ e.terminal = none := tidy.room e.owner ((hasRoom_iff_lt s e.owner).mpr room) h e at_h rfl

theorem Tidy.here (tidy : Tidy s) (at_h : slot s h = some e) :
    HereOk e (noticesOf h (s.queues.get e.owner)) (decide ((s.queues.get e.owner).notices.length < 16)) e where
  fixed := .refl e
  ok := tidy.records.entries h e at_h
  waits := fun room => tidy.waits at_h (by simpa using room)
  reference := fun ended => (hasReference_iff s h e).mp (tidy.references h e at_h ended)

theorem Tidy.alone (tidy : Tidy s) (at_h : slot s h = some e) (silent : e.notify = false) :
    hasReference s h e = false ∧ noticesOf h (s.queues.get e.owner) = [] := by
  obtain ⟨empty, summary, terminal⟩ := (tidy.records.entries h e at_h).silent silent
  refine ⟨?_, empty⟩
  rw [← Bool.not_eq_true, hasReference_iff]
  simp [empty, summary, terminal]

/-- A firing of an entry keeps a tidy part tidy, after its pulse request (R61 to R66). -/
theorem tidyWork_fireArmed (at_h : slot s h = some e) (armed : e.status = .armed due) :
    TidyWork (requestPulse e.strobe e.owner s).1 (fireEntry h v ref late s) := by
  have at_h' : slot (requestPulse e.strobe e.owner s).1 h = some e := by rw [slot_requestPulse, at_h]
  have queues : (requestPulse e.strobe e.owner s).1.queues = s.queues := by simp
  have agenda : AgendaInOrder (requestPulse e.strobe e.owner s).1 → AgendaInOrder (fireEntry h v ref late s) :=
    fun ok => agendaInOrder_fireEntry ((agendaInOrder_requestPulse _ _ s).mp ok)
  have alive : isEnded e = false := isEnded_of_armed armed
  cases notify : e.notify with
  | false =>
    obtain ⟨x, work, moved⟩ := fireEntry_silent v ref late at_h armed notify
    refine .of_entryWork work at_h' agenda (by rw [queues]; exact .refl h _) fun tidy => ?_
    obtain ⟨alone, empty⟩ := tidy.alone at_h' notify
    have here := tidy.here at_h'
    rw [queues] at empty here
    rw [moved ((hasReference_of_parts (by simp) rfl rfl rfl).symm.trans alone)]
    split
    · exact .inr ⟨_, rfl, (here.withMissed fun _ => rfl).withStatus alive fun ended => by
        simp [isEnded, dueOf] at ended⟩
    · exact .inl ⟨rfl, empty⟩
  | true =>
    obtain ⟨⟨q, summary⟩, taken⟩ : ∃ y, occurrenceTaken h e.tag
      (firingOccurrence e due ref v late (requestPulse e.strobe e.owner s).2 (!inMain s)) (s.queues.get e.owner) e.summary =
        y := ⟨_, rfl⟩
    have step := queueStep_occurrenceTaken taken
    have fired : Tidy (requestPulse e.strobe e.owner s).1 →
        HereOk e (noticesOf h q) (decide (q.notices.length < 16)) { e with summary := summary, missed := 0 } := fun tidy => by
      have ok := tidy.records.entries h e at_h'
      have waits := tidy.waits at_h'
      rw [queues] at ok waits
      exact (hereOk_occurrence ok alive waits rfl notify taken).withMissed fun _ => rfl
    have reference : noticesOf h q ≠ [] ∨ summary ≠ none ∨ e.terminal ≠ none :=
      (reference_of_occurrence taken).imp_right .inl
    cases status : firedStatus e due ref with
    | some st =>
      refine .of_entryWork (fireEntry_reported v ref late at_h armed notify taken status) at_h' agenda
        (by rw [queues]; exact step) fun tidy => .inr ⟨_, rfl, (fired tidy).withStatus alive fun _ => reference⟩
    | none =>
      obtain ⟨⟨q', terminal⟩, ended⟩ : ∃ y, terminalTaken h e.tag
        ⟨.exhausted, 0, 0, 0, v, v, ⟨!inMain s, false, false⟩⟩ q e.terminal = y := ⟨_, rfl⟩
      refine .of_entryWork (fireEntry_exhausted v ref late at_h armed notify taken status ended) at_h' agenda
        (by rw [queues]; exact step.trans (queueStep_terminalTaken (by simp) ended)) fun tidy => .inr ⟨_, rfl, ?_⟩
      have here := (fired tidy).withStatus alive (st := .ended .exhausted) fun _ => reference
      exact hereOk_terminal here.ok here.fixed (fun room => here.waits (by simpa using room)) (by simp) rfl notify rfl ended

/-- A firing keeps a tidy part tidy (R61 to R66). -/
theorem tidyWork_fireEntry (h : Handle) (v ref : Time) (late : Bool) (s : State) : TidyWork s (fireEntry h v ref late s) := by
  cases at_h : slot s h with
  | none =>
    have same : fireEntry h v ref late s = s := by simp [fireEntry, at_h]
    rw [same]
    exact .refl s
  | some e =>
    cases armed : e.status with
    | ended cause =>
      have same : fireEntry h v ref late s = s := by simp [fireEntry, at_h, armed]
      rw [same]
      exact .refl s
    | armed due => exact (tidyWork_requestPulse e.strobe e.owner s).trans (tidyWork_fireArmed at_h armed)

end Fire

/-! ### A visit (R70 to R74) -/

section Visit
variable {w : Walk} {h : Handle} {e : Entry} {due : Time} {s : State}

theorem agendaInOrder_realignTo (ok : AgendaInOrder s) (d : Option Time) : AgendaInOrder (realignTo h d s) := by
  unfold realignTo
  split
  · exact agendaInOrder_setStatus ok _
  · exact ok

theorem agendaInOrder_visitSlot (ok : AgendaInOrder s) : AgendaInOrder (visitSlot w h s).1 := by
  by_cases idle : ∀ e due, slot s h = some e → e.status ≠ .armed due
  · rwa [visitSlot_of_idle idle]
  push Not at idle
  obtain ⟨e, due, at_h, armed⟩ := idle
  cases skipped : countsAsSkipped w e due with
  | false =>
    obtain ⟨x, visit, -⟩ := visitSlot_kept at_h armed skipped
    rw [visit]
    exact agendaInOrder_realignTo ok x
  | true =>
    by_cases kind : e.schedule.kind = .oneShot
    · rw [(visitSlot_skipped_oneShot at_h armed skipped kind).1]
      exact agendaInOrder_skipOneShot ok _
    · rw [(visitSlot_skipped_recurring at_h armed skipped kind).1]
      exact agendaInOrder_moveOn (agendaInOrder_updateParts ok _) _ _ _ _

/-- A ONE_SHOT entry that a visit leaves armed counts no miss (R71). -/
theorem realigned_oneShot {d : Time} {k : Nat} (kind : e.schedule.kind = .oneShot)
    (stays : realigned w e due = some (d, k)) : k = 0 := by
  unfold realigned at stays
  cases sch : e.schedule <;> simp only [sch, Schedule.kind, reduceCtorEq] at kind
  · simp only [sch, Schedule.reference, reduceCtorEq, if_false] at stays
    split at stays
    · cases policy : e.policy <;> simp [policy] at stays
      exact stays.2.symm
    · simp at stays
      exact stays.2.symm
  · simp only [sch, Schedule.reference, if_true, Option.some.injEq, Prod.mk.injEq] at stays
    exact stays.2.symm

theorem tidyWork_visitArmed (at_h : slot s h = some e) (armed : e.status = .armed due) :
    TidyWork s (visitSlot w h s).1 := by
  have alive : isEnded e = false := isEnded_of_armed armed
  cases stays : realigned w e due with
  | some y =>
    obtain ⟨d, k⟩ := y
    refine .of_entryWork (visitSlot_realigned at_h armed stays) at_h agendaInOrder_visitSlot (.refl h _)
      fun tidy => .inr ⟨_, rfl, ?_⟩
    have here := tidy.here at_h
    refine (here.withMissed (m := addMissed k e.missed) fun kind => ?_).withStatus alive fun ended => by
      simp [isEnded, dueOf] at ended
    rw [realigned_oneShot kind stays, here.ok.missed kind]
    rfl
  | none =>
    cases notify : e.notify with
    | false =>
      obtain ⟨x, work, gone⟩ := visitSlot_silent at_h armed stays notify
      refine .of_entryWork work at_h agendaInOrder_visitSlot (.refl h _) fun tidy => .inl ?_
      obtain ⟨alone, empty⟩ := tidy.alone at_h notify
      exact ⟨gone alone, empty⟩
    | true =>
      obtain ⟨⟨q, terminal⟩, taken⟩ : ∃ y, terminalTaken h e.tag (visitReport w e due s.tbu.timeline (!inMain s))
        (s.queues.get e.owner) e.terminal = y := ⟨_, rfl⟩
      have report : (visitReport w e due s.tbu.timeline (!inMain s)).reason ≠ .fired ∧
          (visitReport w e due s.tbu.timeline (!inMain s)).fires = 0 := by
        unfold visitReport
        cases e.schedule <;> simp
      refine .of_entryWork (visitSlot_reported at_h armed stays notify taken) at_h agendaInOrder_visitSlot
        (queueStep_terminalTaken report.1 taken) fun tidy => .inr ⟨_, rfl, ?_⟩
      have ok := ((tidy.records.entries h e at_h).withMissed (m := if e.schedule.kind = .oneShot then e.missed else 0)
        (fun kind => by rw [if_pos kind]; exact (tidy.records.entries h e at_h).missed kind)).withStatus
          (st := .ended (visitCause e)) fun _ => rfl
      exact hereOk_terminal ok (.refl e) (tidy.waits at_h) report.1 report.2 notify rfl taken

/-- A visit keeps a tidy part tidy (R70 to R74). -/
theorem tidyWork_visitSlot (w : Walk) (h : Handle) (s : State) : TidyWork s (visitSlot w h s).1 := by
  by_cases idle : ∀ e due, slot s h = some e → e.status ≠ .armed due
  · rw [visitSlot_of_idle idle]
    exact .refl s
  · push Not at idle
    obtain ⟨e, due, at_h, armed⟩ := idle
    exact tidyWork_visitArmed at_h armed

end Visit

/-! ### The loops -/

theorem tidyWork_compareLoop (v : Time) (n : Nat) (s : State) : TidyWork s (compareLoop v n s) := by
  induction n generalizing s with
  | zero => exact .refl s
  | succ n ih =>
    unfold compareLoop
    split
    · exact (tidyWork_fireEntry _ _ _ _ s).trans (ih _)
    · exact .refl s

theorem tidyWork_takeTimelineValue (s : State) : TidyWork s (takeTimelineValue s) := by
  unfold takeTimelineValue
  split
  · exact tidyWork_compareLoop _ _ s
  · exact .refl s

theorem tidyWork_lateFirings (w : Walk) (s : State) : TidyWork s (lateFirings w s) :=
  .foldl _ _ s fun s h => tidyWork_fireEntry h s.tbu.timeline w.newValue true s

end Sys2Proof.Machine
end

section
/-! PROOFS. A comparison of the agenda leaves no due entry, and what a tick does (R1 to R6, R11, R12, R27, R60). -/

-- One proof after the other: the memory limit of the check bounds the threads of Lean.
set_option Elab.async false

namespace Sys2Proof.Machine

/-! ### No due entry stays (R60) -/

/-- A later due lies strictly after the value of the advance (R64, R65). -/
theorem laterDue_after {sch : Schedule} {due v d : Time} (period : PeriodOk sch) (later : laterDue sch due v = some d) :
    v < d := by
  have grid : ∀ per : BitVec 40, 16 ≤ per.toNat → timeInRange (due.toNat + pointsThrough due v per * per.toNat) = some d →
      v < d := fun per long inRange => by
    rw [timeInRange_iff] at inRange
    have whole := Nat.div_add_mod (v.toNat - due.toNat) per.toNat
    have rest := Nat.mod_lt (v.toNat - due.toNat) (by omega : 0 < per.toNat)
    have product : pointsThrough due v per * per.toNat = per.toNat * ((v.toNat - due.toNat) / per.toNat) + per.toNat := by
      rw [pointsThrough]
      ring
    rw [BitVec.lt_def]
    omega
  cases sch with
  | oneShotWall => simp [laterDue] at later
  | oneShotElapsed => simp [laterDue] at later
  | periodicWall per anchor => exact grid per (period.1 per anchor rfl) later
  | periodicElapsed per => exact grid per (period.2 per rfl) later
  | calendar pat => exact ((nextMatch_spec pat v).1 d later).1

theorem firedStatus_after {e : Entry} {due v d : Time} (period : PeriodOk e.schedule)
    (status : firedStatus e due v = some (.armed d)) : v < d := by
  rw [firedStatus_eq] at status
  split_ifs at status
  · simp at status
  · obtain ⟨d', later, same⟩ := Option.map_eq_some_iff.mp status
    cases same
    exact laterDue_after period later

/-- An on-time firing leaves its entry ended, or armed strictly after the value (R63 to R65). -/
theorem dueAt_fireEntry {h : Handle} {v : Time} {s : State} {e : Entry} {due : Time} (tidy : Tidy s)
    (at_h : slot s h = some e) (armed : e.status = .armed due) {d : Time}
    (after : dueAt (fireEntry h v v false s) h = some d) : v < d := by
  have period := (tidy.records.entries h e at_h).period
  obtain ⟨x, at_after, status⟩ := dueAt_eq_some.mp after
  cases notify : e.notify with
  | false =>
    obtain ⟨y, work, moved⟩ := fireEntry_silent v v false at_h armed notify
    rw [work.here, moved (tidy.alone at_h notify).1] at at_after
    split at at_after
    · next later =>
      cases at_after
      cases status
      exact firedStatus_after period later
    · simp at at_after
  | true =>
    cases fired : firedStatus e due v with
    | some st =>
      rw [(fireEntry_reported v v false at_h armed notify rfl fired).here] at at_after
      cases at_after
      subst status
      exact firedStatus_after period fired
    | none =>
      rw [(fireEntry_exhausted v v false at_h armed notify rfl fired rfl).here] at at_after
      cases at_after
      simp at status

/-- The entries that are due at or before a value. -/
def dueCount (v : Time) (s : State) : Nat := allHandles.countP fun h => (dueAt s h).any fun d => decide (d ≤ v)

theorem dueHead_eq_some {v : Time} {s : State} {h : Handle} (head : dueHead v s = some h) :
    ∃ due, dueAt s h = some due ∧ due ≤ v := by
  unfold dueHead at head
  split at head
  · simp at head
  · next g rest _ =>
    split at head
    · next due at_g =>
      split_ifs at head with before
      cases head
      exact ⟨due, at_g, before⟩
    · simp at head

/-- A head that is not due shows that no entry is (R59, R60). -/
theorem no_due_of_head {v : Time} {s : State} (agenda : AgendaInOrder s) (none : dueHead v s = none) {h : Handle} {due : Time}
    (at_h : dueAt s h = some due) : v < due := by
  obtain ⟨-, mem, ordered⟩ := (agendaInOrder_iff s).mp agenda
  have inside := (mem h).mpr (by simp [at_h])
  unfold dueHead at none
  split at none
  · next empty => simp [empty] at inside
  · next g rest list =>
    rw [list] at inside ordered mem
    obtain ⟨d, at_g⟩ := Option.isSome_iff_exists.mp ((mem g).mp (by simp))
    rw [dueAt] at at_g
    simp only [at_g] at none
    split_ifs at none with before
    have first : v < d := BitVec.not_le.mp before
    rcases List.mem_cons.mp inside with rfl | later
    · cases at_h.symm.trans at_g
      exact first
    · have order := (List.pairwise_cons.mp ordered).1 h later d due at_g at_h
      rw [agendaBefore_iff, BitVec.lt_def] at order
      rw [BitVec.lt_def] at first ⊢
      rcases order with less | ⟨rfl, -⟩
      · exact first.trans less
      · exact first

theorem countP_lt_of_one {α : Type} [DecidableEq α] {l : List α} {a : α} (inside : a ∈ l) {f g : α → Bool}
    (before : f a = true) (after : g a = false) (others : ∀ b, b ≠ a → g b = f b) : l.countP g < l.countP f := by
  induction l with
  | nil => simp at inside
  | cons b l ih =>
    rw [List.countP_cons, List.countP_cons]
    have tail : l.countP g ≤ l.countP f := List.countP_mono_left fun x _ hx => by
      by_cases same : x = a
      · rw [same, after] at hx
        simp at hx
      · rwa [← others x same]
    by_cases same : b = a
    · subst same
      simp only [before, after, if_true, Bool.false_eq_true, if_false]
      omega
    · have later := ih ((List.mem_cons.mp inside).resolve_left (Ne.symm same))
      rw [others b same]
      omega

theorem dueCount_fireEntry {v : Time} {s : State} {h : Handle} (tidy : Tidy s) (head : dueHead v s = some h) :
    dueCount v (fireEntry h v v false s) < dueCount v s := by
  obtain ⟨due, at_h, before⟩ := dueHead_eq_some head
  obtain ⟨e, slot_h, armed⟩ := dueAt_eq_some.mp at_h
  obtain ⟨b, q, x, work, -⟩ := entryWork_fireEntry v v false slot_h armed
  refine countP_lt_of_one (mem_allHandles h) (by simp [at_h, before]) ?_ fun g other => ?_
  · cases after : dueAt (fireEntry h v v false s) h with
    | none => rfl
    | some d => simpa using dueAt_fireEntry tidy slot_h armed after
  · rw [dueAt, dueAt, work.others g other, slot_requestPulse]

/-- As many comparisons as entries are due suffice (R60). -/
theorem dueHead_compareLoop {v : Time} {n : Nat} {s : State} (tidy : Tidy s) (enough : dueCount v s ≤ n) :
    dueHead v (compareLoop v n s) = none := by
  induction n generalizing s with
  | zero =>
    cases head : dueHead v s with
    | none => exact head
    | some h => exact absurd (dueCount_fireEntry tidy head) (by omega)
  | succ n ih =>
    unfold compareLoop
    cases head : dueHead v s with
    | none => exact head
    | some h => exact ih ((tidyWork_fireEntry h v v false s).tidy tidy) (by
        have fewer := dueCount_fireEntry tidy head
        omega)

theorem dueCount_le (v : Time) (s : State) : dueCount v s ≤ 96 :=
  List.countP_le_length.trans (by simp [allHandles])

/-- While RUNNING a comparison fires every due entry, in agenda order (R60). -/
theorem takeTimelineValue_fires {s : State} (tidy : Tidy s) (running : isRunning s = true) :
    FiredThrough s.tbu.timeline s (takeTimelineValue s) ∧ dueHead s.tbu.timeline (takeTimelineValue s) = none := by
  rw [takeTimelineValue, if_pos running]
  have none := dueHead_compareLoop tidy (dueCount_le s.tbu.timeline s)
  exact ⟨compareLoop_firedThrough _ _ _ none, none⟩

theorem tidy_of_inOrder {s : State} (ok : InOrder s) : Tidy s := by
  obtain ⟨records, room⟩ := (records_iff s).mp ⟨ok.entries, ok.queues, ok.pendingParts⟩
  exact ⟨records, room, ok.references, ok.agenda, ok.lines, ok.strobes⟩

end Sys2Proof.Machine
end

section
/-! PROOFS. The oscillator tick (R1, R2, R5, R6, R9, R11, R12, R27). -/

-- One proof after the other: the memory limit of the check bounds the threads of Lean.
set_option Elab.async false

namespace Sys2Proof.Machine

/-! ### Flags and lines -/

theorem linesFollow_handFlag {s : State} (ok : LinesFollow s) (f : Flag) (p : Port) : LinesFollow (handFlag f p s) := by
  intro r
  by_cases port : r = p
  · subst port
    exact LineInOrder.of_answers (ok r) (lineAnswers_handFlag f r s) (handFlag_config f r r s).2.2 (by simp) (by simp)
  · have attn := handFlag_other f s port
    exact LineInOrder.congr (ok r) attn
      (attnCondition_congr (by rw [attn]) (by rw [attn]) (noticeSource_congr (by simp) r)) (by simp) (by simp)

/-! ### One tick more -/

/-- An end that is not due yet is one tick nearer after a tick (R3). -/
theorem remaining_tick {e m : Mono} (ahead : e ≠ m) : (remaining e (m + 1)).toNat < (remaining e m).toNat := by
  have different : e.toNat ≠ m.toNat := fun same => ahead (BitVec.eq_of_toNat_eq same)
  simp only [remaining]
  bv_omega

/-- The tick of the counts keeps a part tidy whose limits are not due (R3, R136, R143). -/
theorem Tidy.tick {s : State} (tidy : Tidy s) (no_limit : limitDue s = false) {x : Tbu} (mono : x.mono = s.tbu.mono + 1) :
    Tidy { s with tbu := x } := by
  obtain ⟨-, -, -, pulses, strobes⟩ := (limitDue_eq_false_iff s).mp no_limit
  refine tidy.congr rfl rfl rfl (fun p => ?_) fun l e pulsing => ?_
  · obtain ⟨driven, running⟩ := tidy.lines p
    refine ⟨driven, fun e at_e => ?_⟩
    obtain ⟨main, mode, condition, short⟩ := running e at_e
    refine ⟨main, mode, condition, ?_⟩
    have ahead : e ≠ s.tbu.mono := fun same => by
      have due := (attnPulseDue_iff (s := s) p).mpr (by rw [at_e, same])
      simp [pulses p] at due
    have less := remaining_tick ahead
    show (remaining e x.mono).toNat ≤ 64
    rw [mono]
    omega
  · obtain ⟨main, owner, short⟩ := tidy.strobes l e pulsing
    have ahead : e ≠ s.tbu.mono := fun same => by
      have due := (strobePulseDue_iff (s := s) l).mpr (by rw [pulsing, same])
      simp [strobes l] at due
    have less := remaining_tick ahead
    refine ⟨main, owner, ?_⟩
    show (remaining e x.mono).toNat ≤ 255
    rw [mono]
    omega

/-! ### The tick as one event -/

theorem tidy_flags {s : State} (tidy : Tidy s) {t : State} (agu : t.agu = s.agu) (queues : t.queues = s.queues)
    (strobes : t.strobes = s.strobes) (map : t.pru.strobeMap = s.pru.strobeMap) (spm : t.spm = s.spm)
    (mono : t.tbu.mono = s.tbu.mono) (lines : LinesFollow t) : Tidy t :=
  tidy.congr (by rw [agu]) (by rw [agu]) queues lines (strobesInOrder_congr tidy.strobes strobes map spm mono)

theorem Tidy.handFlag {s : State} (tidy : Tidy s) (f : Flag) (p : Port) : Tidy (handFlag f p s) :=
  tidy_flags tidy (by simp) (by simp) (by simp) (by simp) (by simp) (by simp) (linesFollow_handFlag tidy.lines f p)

theorem Tidy.handFlagToAll {s : State} (tidy : Tidy s) (f : Flag) : Tidy (handFlagToAll f s) :=
  foldl_keeps (P := Tidy) _ _ _ (fun _ p h => h.handFlag f p) tidy

section Flagged
variable {s : State} {x : Tbu}

theorem tickFlagged_eq (x : Tbu) (s : State) :
    tickFlagged x s = handValidityChange s.tbu.validity
      (if completesSlew s.tbu x = true then handFlagToAll .timeAdjusted { s with tbu := x } else { s with tbu := x }) := by
  unfold tickFlagged handValidityChange
  split <;> simp

@[simp] theorem tickFlagged_frame (x : Tbu) (s : State) :
    (tickFlagged x s).tbu = x ∧ (tickFlagged x s).lease = s.lease ∧ (tickFlagged x s).agu = s.agu ∧
      (tickFlagged x s).queues = s.queues ∧ (tickFlagged x s).strobes = s.strobes ∧ (tickFlagged x s).pru = s.pru ∧
      (tickFlagged x s).ports = s.ports ∧ (tickFlagged x s).spm = s.spm ∧ (tickFlagged x s).draws = s.draws ∧
      (tickFlagged x s).pending = s.pending := by
  unfold tickFlagged
  dsimp only
  split <;> split <;> simp

theorem tickFlagged_flags (x : Tbu) (s : State) (r : Port) :
    ((tickFlagged x s).attn.get r).flags =
        (s.attn.get r).flags ||| (if completesSlew s.tbu x = true then flagBit .timeAdjusted else 0) |||
          (if x.validity ≠ s.tbu.validity then flagBit .validity else 0) ∧
      ((tickFlagged x s).attn.get r).cause = (s.attn.get r).cause ∧
      ((tickFlagged x s).attn.get r).enables = (s.attn.get r).enables ∧
      ((tickFlagged x s).attn.get r).mode = (s.attn.get r).mode := by
  unfold tickFlagged
  dsimp only
  split <;> split <;> simp [handFlagToAll_flags]

theorem tickFlagged_quiet (slew : completesSlew s.tbu x = false) (validity : x.validity = s.tbu.validity) :
    tickFlagged x s = { s with tbu := x } := by simp [tickFlagged, slew, validity]

theorem Tidy.tickFlagged (tidy : Tidy s) (no_limit : limitDue s = false) (mono : x.mono = s.tbu.mono + 1) :
    Tidy (tickFlagged x s) := by
  have ticked := tidy.tick no_limit mono
  unfold Machine.tickFlagged
  dsimp only
  split <;> split
  · exact (ticked.handFlagToAll _).handFlagToAll _
  · exact ticked.handFlagToAll _
  · exact ticked.handFlagToAll _
  · exact ticked

end Flagged

/-- A tick counts, hands its flags over, and then takes the new timeline value if it changed (R1, R12, R27). -/
theorem oscillatorTick_eq (s : State) :
    ∃ adv : Nat, adv ≤ 3 ∧ (adv : Int) = 1 + trimRow s.tbu (s.tbu.mono + 1) + slewRow s.tbu (s.tbu.mono + 1) ∧
      oscillatorTick s =
        if (ticked s.tbu adv).timeline = s.tbu.timeline then tickFlagged (ticked s.tbu adv) s
        else takeTimelineValue (tickFlagged (ticked s.tbu adv) s) := by
  obtain ⟨adv, small, sum, after, slew⟩ := tbuTick_ticked s.tbu
  refine ⟨adv, small, sum, ?_⟩
  rw [tickFlagged_eq, ← after, ← (slew.trans (by rw [← after]) : (tbuTick s.tbu).2.2 = completesSlew s.tbu (tbuTick s.tbu).1)]
  rfl

/-- A due entry is no head while none is left behind (R60). -/
theorem dueHead_of_none {s : State} (later : ∀ h due, dueAt s h = some due → s.tbu.timeline < due) :
    dueHead s.tbu.timeline s = none := by
  cases head : dueHead s.tbu.timeline s with
  | none => rfl
  | some h =>
    obtain ⟨due, at_h, before⟩ := dueHead_eq_some head
    exact absurd before (BitVec.not_le.mpr (later h due at_h))

theorem noDueLeftBehind_iff (s : State) :
    NoDueLeftBehind s ↔ (isRunning s = true → ∀ h due, dueAt s h = some due → s.tbu.timeline < due) := by
  simp only [dueAt_eq_some]
  exact ⟨fun ok running h due ⟨e, at_h, armed⟩ => ok running h e due at_h armed,
    fun ok running h e due at_h armed => ok running h due ⟨e, at_h, armed⟩⟩

/-- Settles O7: a tick is the counts, the flags and the comparison, which in a part in order fires every due entry. -/
theorem oscillatorTickMovesTheCounts : Obligations.OscillatorTickMovesTheCounts := by
  intro s no_limit
  obtain ⟨adv, small, sum, tick⟩ := oscillatorTick_eq s
  have row := exec_oscillatorTick no_limit
  generalize after : oscillatorTick s = t at row tick
  have work : AgendaWork (tickFlagged (ticked s.tbu adv) s) t := by
    rw [tick]
    split
    · exact .refl _
    · exact takeTimelineValue_work _
  have running : isRunning (tickFlagged (ticked s.tbu adv) s) = isRunning s := isRunning_congr (by simp)
  obtain ⟨tbu, lease, pru, ports, spm, draws, pending, state, held, setup⟩ := work
  simp only [tickFlagged_frame] at tbu lease pru ports spm draws pending state held
  refine ⟨t, adv, row, small, sum, tbu, lease, pru, ports, spm, draws, pending, state, held, fun r => ?_,
    fun slew validity idle => ?_, fun ok => ⟨fun runs => ?_, fun walks => ?_⟩⟩
  · obtain ⟨flags, cause, enables, mode⟩ := tickFlagged_flags (ticked s.tbu adv) s r
    obtain ⟨flags', cause', enables', mode'⟩ := setup r
    rw [tbu]
    exact ⟨flags'.trans flags, cause'.trans cause, enables'.trans enables, mode'.trans mode⟩
  · rw [tbu] at slew validity idle ⊢
    rw [← tickFlagged_quiet slew validity]
    rw [tick]
    split
    · rfl
    · next moved =>
      refine takeTimelineValue_idle ?_
      rw [running, tickFlagged_frame _ _ |>.1]
      rcases idle with walks | same | none
      · exact .inl walks
      · exact absurd same moved
      · refine .inr ?_
        rw [tickFlagged_quiet slew validity]
        exact none
  · have tidy := (tidy_of_inOrder ok).tickFlagged no_limit (x := ticked s.tbu adv) rfl
    rw [tbu, tick]
    split
    · next same =>
      refine .finished _ ?_
      have none := dueHead_of_none ((noDueLeftBehind_iff s).mp ok.dues runs)
      rw [same]
      simpa [dueHead, slot_congr (s := s) (t := tickFlagged (ticked s.tbu adv) s) (by simp)] using none
    · have fires := (takeTimelineValue_fires tidy (running.trans runs)).1
      rwa [(tickFlagged_frame _ _).1] at fires
  · rw [tbu, tick]
    split
    · rfl
    · exact takeTimelineValue_idle (.inl (running.trans walks))

end Sys2Proof.Machine
end

section
/-! PROOFS. The end of the realign walk (R78 to R83). -/

-- One proof after the other: the memory limit of the check bounds the threads of Lean.
set_option Elab.async false

namespace Sys2Proof.Machine

/-! ### The held commands (R82) -/

section Held
variable {p : Port} {x : State}

/-- A command but a step is completed at its port, after work of the AGU at most (R82). -/
theorem runAgendaCommand_completes {c : AgendaCommand} (other : ∀ payload, c ≠ .step payload) (p : Port) (x : State) :
    ∃ r out y, runAgendaCommand p c x = complete p r out y ∧ AgendaWork x y := by
  cases c with
  | step payload => exact absurd rfl (other payload)
  | create payload =>
    simp only [runAgendaCommand, runCreateEntry]
    split
    · exact ⟨_, _, _, rfl, .refl x⟩
    · split
      · exact ⟨_, _, _, rfl, .refl x⟩
      · split
        · exact ⟨_, _, _, rfl, .refl x⟩
        · exact ⟨_, _, _, rfl, putSlot_work _ _ x⟩
  | cancel payload =>
    simp only [runAgendaCommand, runCancelEntry]
    split
    · exact ⟨_, _, _, rfl, .refl x⟩
    · split
      · exact ⟨_, _, _, rfl, .refl x⟩
      · split
        · exact ⟨_, _, _, rfl, .refl x⟩
        · exact ⟨_, _, _, rfl, (endEntry_work _ _ x).trans (releaseIfDone_work _ _)⟩
  | query payload =>
    simp only [runAgendaCommand, runQueryEntry]
    split
    · exact ⟨_, _, _, rfl, .refl x⟩
    · split
      · exact ⟨_, _, _, rfl, .refl x⟩
      · exact ⟨_, _, _, rfl, .refl x⟩
  | listOwn => exact ⟨_, _, _, rfl, .refl x⟩

theorem takeHeld_empty (none : x.agu.held.get p = none) : takeHeld x p = x := by simp [takeHeld, none]

theorem takeHeld_some {c : AgendaCommand} (running : isRunning x = true) (some : x.agu.held.get p = some c) :
    takeHeld x p = runAgendaCommand p c (markHeld p false (setHeld p none x)) := by simp [takeHeld, running, some]

/-- A held command but a step leaves its place empty and its port DONE (R80, R82). -/
theorem takeHeld_completes {c : AgendaCommand} {cmd : Command} (running : isRunning x = true)
    (held : x.agu.held.get p = some c) (other : ∀ payload, c ≠ .step payload) (working : (x.ports.get p).state = .working cmd) :
    isRunning (takeHeld x p) = true ∧ (takeHeld x p).agu.held = x.agu.held.set p none ∧
      ∃ r out, (takeHeld x p).ports =
        x.ports.set p { x.ports.get p with state := .done ⟨cmd.code, cmd.seq, r, out⟩ } := by
  obtain ⟨r, out, y, runs, work⟩ := runAgendaCommand_completes other p (markHeld p false (setHeld p none x))
  obtain ⟨-, -, -, ports, -, -, -, state, place, -⟩ := work
  rw [takeHeld_some running held, runs]
  have marked : (markHeld p false (setHeld p none x)).ports =
      x.ports.set p { x.ports.get p with state := .working { cmd with held := false } } := by
    simp [markHeld, working]
  refine ⟨(isRunning_congr (s := x) ?_).trans running, ?_, r, out, ?_⟩
  · simp [state]
  · simp [place]
  · simp only [complete, ports, marked, PerPort.get_set_self, State.setPort_ports, PerPort.set_set]

/-- Held commands but steps, taken port by port: every place is emptied, and each port that waited is DONE (R82). -/
theorem foldl_takeHeld {l : List Port} (nodup : l.Nodup) (running : isRunning x = true)
    (steps : ∀ p payload, x.agu.held.get p ≠ some (.step payload))
    (working : ∀ p, x.agu.held.get p ≠ none → ∃ c, (x.ports.get p).state = .working c) :
    isRunning (l.foldl takeHeld x) = true ∧
      ∀ q, (q ∉ l → (l.foldl takeHeld x).agu.held.get q = x.agu.held.get q ∧
          (l.foldl takeHeld x).ports.get q = x.ports.get q) ∧
        (q ∈ l → (l.foldl takeHeld x).agu.held.get q = none ∧
          ∀ c, (x.ports.get q).state = .working c → x.agu.held.get q ≠ none →
            ∃ r, ((l.foldl takeHeld x).ports.get q).state = .done r ∧ r.code = c.code ∧ r.seq = c.seq) := by
  induction l generalizing x with
  | nil => exact ⟨running, fun q => ⟨fun _ => ⟨rfl, rfl⟩, fun inside => by simp at inside⟩⟩
  | cons p l ih =>
    obtain ⟨outside, nodup⟩ := List.nodup_cons.mp nodup
    rw [List.foldl_cons]
    cases held : x.agu.held.get p with
    | none =>
      rw [takeHeld_empty held]
      obtain ⟨after, ports⟩ := ih nodup running steps working
      refine ⟨after, fun q => ⟨fun away => (ports q).1 fun inside => away (by simp [inside]), fun inside => ?_⟩⟩
      rcases List.mem_cons.mp inside with rfl | later
      · refine ⟨((ports q).1 outside).1.trans held, fun c _ some => absurd held some⟩
      · exact (ports q).2 later
    | some c =>
      obtain ⟨cmd, busy⟩ := working p (by simp [held])
      obtain ⟨runs, places, r, out, states⟩ := takeHeld_completes running held (fun payload same => steps p payload
        (by rw [held, same])) busy
      have others : ∀ q, q ≠ p → (takeHeld x p).agu.held.get q = x.agu.held.get q ∧
          (takeHeld x p).ports.get q = x.ports.get q := fun q different => by
        rw [places, states, PerPort.get_set_ne _ _ different, PerPort.get_set_ne _ _ different]
        exact ⟨rfl, rfl⟩
      have emptied : (takeHeld x p).agu.held.get p = none := by rw [places, PerPort.get_set_self]
      obtain ⟨after, ports⟩ := ih (x := takeHeld x p) nodup runs
        (fun q payload => by
          by_cases same : q = p
          · simp [same, emptied]
          · rw [(others q same).1]
            exact steps q payload)
        (fun q some => by
          have different : q ≠ p := fun same => some (by rw [same, emptied])
          rw [(others q different).1] at some
          rw [(others q different).2]
          exact working q some)
      refine ⟨after, fun q => ⟨fun away => ?_, fun inside => ?_⟩⟩
      · have different : q ≠ p := fun same => away (by simp [same])
        obtain ⟨place, state⟩ := (ports q).1 fun inside => away (by simp [inside])
        exact ⟨place.trans (others q different).1, state.trans (others q different).2⟩
      · by_cases same : q = p
        · subst same
          obtain ⟨place, state⟩ := (ports q).1 outside
          refine ⟨place.trans emptied, fun c' busy' _ => ?_⟩
          rw [state, states, PerPort.get_set_self]
          cases busy.symm.trans busy'
          exact ⟨_, rfl, rfl, rfl⟩
        · have later := (List.mem_cons.mp inside).resolve_left same
          rw [← (others q same).1, ← (others q same).2]
          exact (ports q).2 later

end Held

/-! ### The stages of the end of the walk (R78) -/

section Stages
variable {s : State} {w : Walk}

/-- The part after the late firings of a walk that has ended (R79). -/
def afterLate (w : Walk) (s : State) : State := lateFirings w (setAgendaState .running s)

/-- The part after the step's response (R80). -/
def afterStep (w : Walk) (s : State) : State :=
  completeStep { w with firedLate := (lateHandles w (setAgendaState .running s)).length } (afterLate w s)

theorem endOfWalk_eq (walk : walkOf s = some w) (finished : 96 ≤ w.position) :
    endOfWalk s = allPorts.foldl takeHeld (takeTimelineValue (afterStep w s)) := by
  simp only [endOfWalk, walk, if_pos finished]
  rfl

theorem firesLate_setAgendaState (st : AgendaState) : firesLate w (setAgendaState st s) = firesLate w s := by
  funext h
  simp only [firesLate, slot_setAgendaState]

theorem lateHandles_length (st : AgendaState) :
    (lateHandles w (setAgendaState st s)).length = allHandles.countP (firesLate w s) := by
  rw [lateHandles, firesLate_setAgendaState, List.countP_eq_length_filter]

theorem foldl_fireEntry_at {v ref : Time} (l : List Handle) (s : State) (now : s.tbu.timeline = v) :
    l.foldl (fun s h => fireEntry h s.tbu.timeline ref true s) s = l.foldl (fun s h => fireEntry h v ref true s) s := by
  induction l generalizing s with
  | nil => rfl
  | cons h l ih =>
    have tbu := (fireEntry_work h v ref true s).1
    rw [List.foldl_cons, List.foldl_cons, now, ih _ (by rw [tbu, now])]

theorem afterLate_eq (w : Walk) (s : State) :
    afterLate w s = (allHandles.filter (firesLate w s)).foldl (fun x h => fireEntry h s.tbu.timeline w.newValue true x)
      { s with agu := { s.agu with state := .running } } := by
  rw [afterLate, lateFirings, lateHandles, firesLate_setAgendaState]
  exact foldl_fireEntry_at _ _ (by simp)

theorem afterLate_work (w : Walk) (s : State) : AgendaWork (setAgendaState .running s) (afterLate w s) :=
  lateFirings_work w _

theorem afterStep_eq (w : Walk) (s : State) :
    afterStep w s = if w.wanted = true then
      complete w.port .ok
        (timeBytes w.oldValue ++ timeBytes w.newValue ++ signedBytes 4 w.droppedSlew ++
          [BitVec.ofNat 8 (allHandles.countP (firesLate w s)), BitVec.ofNat 8 w.skipped]) (afterLate w s)
      else afterLate w s := by
  rw [← lateHandles_length .running]
  rfl

/-- What the late firings and the response leave (R78 to R80). -/
theorem afterStep_frame (w : Walk) (s : State) :
    (afterStep w s).tbu = s.tbu ∧ (afterStep w s).lease = s.lease ∧ (afterStep w s).pru = s.pru ∧
      (afterStep w s).spm = s.spm ∧ (afterStep w s).draws = s.draws ∧ (afterStep w s).pending = s.pending ∧
      (afterStep w s).agu.state = .running ∧ (afterStep w s).agu.held = s.agu.held ∧
      (∀ p, ¬ (w.wanted = true ∧ p = w.port) → (afterStep w s).ports.get p = s.ports.get p) := by
  obtain ⟨tbu, lease, pru, ports, spm, draws, pending, state, held, -⟩ := afterLate_work w s
  simp only [setAgendaState_frame] at tbu lease pru ports spm draws pending state held
  rw [afterStep_eq]
  split
  · next wanted =>
    simp only [complete_frame, tbu, lease, pru, spm, draws, pending, state, held, true_and]
    intro p other
    have different : p ≠ w.port := fun same => other ⟨wanted, same⟩
    rw [complete_ports, ports]
    split
    · rw [if_neg different]
    · rfl
  · exact ⟨tbu, lease, pru, spm, draws, pending, state, held, fun p _ => by rw [ports]⟩

/-- The step's response is delivered at the stepping port, if it is wanted (R80). -/
theorem afterStep_ports (w : Walk) (s : State) :
    (w.wanted = false → (afterStep w s).ports = s.ports) ∧
      ∀ c, w.wanted = true → (s.ports.get w.port).state = .working c →
        (afterStep w s).ports = s.ports.set w.port { s.ports.get w.port with
          state := .done ⟨c.code, c.seq, .ok,
            timeBytes w.oldValue ++ timeBytes w.newValue ++ signedBytes 4 w.droppedSlew ++
              [BitVec.ofNat 8 (allHandles.countP (firesLate w s)), BitVec.ofNat 8 w.skipped]⟩ } := by
  have ports : (afterLate w s).ports = s.ports := by
    obtain ⟨-, -, -, ports, -⟩ := afterLate_work w s
    simpa using ports
  rw [afterStep_eq]
  refine ⟨fun unwanted => by simpa [unwanted] using ports, fun c wanted working => ?_⟩
  rw [if_pos wanted, complete, ports, working]
  simp [ports]

theorem Tidy.setAgendaState (tidy : Tidy s) (st : AgendaState) : Tidy (setAgendaState st s) :=
  tidy.congr (by simp) (by simp) (by simp) (linesFollow_congr tidy.lines (by simp) (by simp) (by simp) (by simp))
    (strobesInOrder_congr tidy.strobes (by simp) (by simp) (by simp) (by simp))

theorem Tidy.complete (tidy : Tidy s) (p : Port) (r : Result) (out : List Byte) : Tidy (complete p r out s) :=
  tidy.congr (by simp) (by simp) (by simp) (linesFollow_congr tidy.lines (by simp) (by simp) (by simp) (by simp))
    (strobesInOrder_congr tidy.strobes (by simp) (by simp) (by simp) (by simp))

theorem Tidy.afterStep (tidy : Tidy s) (w : Walk) : Tidy (afterStep w s) := by
  have late := (tidyWork_lateFirings w _).tidy (tidy.setAgendaState .running)
  rw [afterStep_eq]
  split
  · exact late.complete _ _ _
  · exact late

/-- Before the held commands are taken the part is RUNNING, and every place and every other port stands as before (R78). -/
theorem beforeHeld_frame (w : Walk) (s : State) :
    isRunning (takeTimelineValue (Machine.afterStep w s)) = true ∧
      (takeTimelineValue (Machine.afterStep w s)).agu.held = s.agu.held ∧
      (takeTimelineValue (Machine.afterStep w s)).ports = (Machine.afterStep w s).ports := by
  obtain ⟨-, -, -, ports, -, -, -, state, held, -⟩ := takeTimelineValue_work (Machine.afterStep w s)
  obtain ⟨-, -, -, -, -, -, state', held', -⟩ := afterStep_frame w s
  exact ⟨by simp [isRunning, walkOf, state, state'], held.trans held', ports⟩

/-- A state that agrees in every block but the Port Controllers is the old one with the new controllers. -/
theorem SameButPorts.eq_with_ports {s t : State} (h : SameButPorts s t) : t = { s with ports := t.ports } := by
  obtain ⟨h1, h2, h3, h4, h5, h6, h7, h8, h9, h10⟩ := h
  cases s; cases t
  simp_all

theorem foldl_takeHeld_empty (none : ∀ p, s.agu.held.get p = none) (l : List Port) : l.foldl takeHeld s = s := by
  induction l with
  | nil => rfl
  | cons p l ih => rw [List.foldl_cons, takeHeld_empty (none p), ih]

theorem firesLate_iff (w : Walk) (s : State) (h : Handle) :
    firesLate w s h = true ↔
      ∃ e due, slot s h = some e ∧ e.status = .armed due ∧ e.schedule.reference = .wall ∧ e.policy = .fireLate ∧
        0 < w.delta ∧ due ≤ w.newValue := by
  cases at_h : slot s h with
  | none => simp [firesLate, at_h]
  | some e =>
    cases status : e.status with
    | ended cause => simp [firesLate, at_h, status]
    | armed due =>
      simp only [firesLate, at_h, status, Bool.and_eq_true, decide_eq_true_eq, beq_iff_eq, Option.some.injEq]
      constructor
      · rintro ⟨⟨⟨ahead, wall⟩, late⟩, overtaken⟩
        exact ⟨e, due, rfl, status, wall, late, ahead, overtaken⟩
      · rintro ⟨_, d, rfl, armed, wall, late, ahead, overtaken⟩
        cases status.symm.trans armed
        exact ⟨⟨⟨ahead, wall⟩, late⟩, overtaken⟩

theorem exec_endOfWalk (no_limit : limitDue s = false) : exec .endOfWalk s = .next (endOfWalk s) :=
  exec_of_no_limit no_limit

end Stages

/-- A walk that ends with no command held (R78 to R80). -/
theorem endOfWalk_alone {s : State} {w : Walk} (no_limit : limitDue s = false) (walk : walkOf s = some w)
    (finished : 96 ≤ w.position) (none : ∀ p, s.agu.held.get p = none) :
    exec .endOfWalk s = .next (takeTimelineValue (afterStep w s)) := by
  obtain ⟨-, held, -⟩ := beforeHeld_frame w s
  rw [exec_endOfWalk no_limit, endOfWalk_eq walk finished, foldl_takeHeld_empty (by rw [held]; exact none)]

/-- Settles O27: the stages in order; the late firings and the comparison are those of Laws/Agenda, and each held command
is completed at its port. -/
theorem endOfWalkCompletesTheStep : Obligations.EndOfWalkCompletesTheStep := by
  intro s w no_limit walk finished
  obtain ⟨runs, held, ports⟩ := beforeHeld_frame w s
  obtain ⟨tbu, lease, pru, spm, draws, pending, state, places, others⟩ := afterStep_frame w s
  refine ⟨fun none => ⟨takeTimelineValue (afterStep w s), endOfWalk_alone no_limit walk finished none, runs, ?_⟩,
    fun ok steps => ⟨endOfWalk s, exec_endOfWalk no_limit, ?_⟩, fun ok => ?_, firesLate_iff w s,
    fun x p payload c working => ⟨fun refused => ?_, fun target taken => ?_⟩⟩
  · obtain ⟨tbu', lease', pru', -, spm', draws', pending', -, -, -⟩ := takeTimelineValue_work (afterStep w s)
    obtain ⟨silent, response⟩ := afterStep_ports w s
    refine ⟨tbu'.trans tbu, lease'.trans lease, pru'.trans pru, spm'.trans spm, draws'.trans draws,
      pending'.trans pending, held, fun c wanted working => ports.trans (response c wanted working),
      fun unwanted => ports.trans (silent unwanted), fun no_late no_due => ?_⟩
    have late : afterLate w s = { s with agu := { s.agu with state := .running } } := by
      rw [afterLate_eq, List.filter_eq_nil_iff.mpr fun h _ => by simp [no_late h]]
      rfl
    have idle : takeTimelineValue (afterStep w s) = afterStep w s := by
      refine takeTimelineValue_idle (.inr ?_)
      have store : (afterStep w s).agu = { s.agu with state := .running } := by
        rw [afterStep_eq, late]
        split <;> simp
      rw [tbu]
      simpa [dueHead, store, slot] using no_due
    rw [idle]
    have same : afterStep w s = { afterLate w s with ports := (afterStep w s).ports } := by
      rw [afterStep_eq]
      split
      · exact (complete_same _ _ _ _).eq_with_ports
      · rfl
    rw [same, late]
  · rw [endOfWalk_eq walk finished]
    have working : ∀ p, s.agu.held.get p ≠ none → ∃ c, (s.ports.get p).state = .working c ∧ c.held = true := fun p =>
      (ok.held p).1.mp
    have waiting : ∀ p c, (s.ports.get p).state = .working c → c.held = true →
        (afterStep w s).ports.get p = s.ports.get p := fun p c busy marked => others p fun ⟨wanted, same⟩ => by
      obtain ⟨c', busy', unheld⟩ := (ok.working p).mpr ⟨w, walk, same.symm, wanted⟩
      cases busy.symm.trans busy'
      simp [marked] at unheld
    obtain ⟨after, all⟩ := foldl_takeHeld (l := allPorts) (by decide) runs (by rw [held]; exact steps) (by
      intro p some
      rw [held] at some
      obtain ⟨c, busy, marked⟩ := working p some
      exact ⟨c, by rw [ports, waiting p c busy marked, busy]⟩)
    refine ⟨after, fun p => ⟨((all p).2 (mem_allPorts p)).1, fun c busy marked => ?_⟩⟩
    refine ((all p).2 (mem_allPorts p)).2 c (by rw [ports, waiting p c busy marked, busy]) ?_
    rw [held]
    exact (ok.held p).1.mpr ⟨c, busy, marked⟩
  · have fires := (takeTimelineValue_fires ((tidy_of_inOrder ok).afterStep w)
      (by simp [isRunning, walkOf, state] : isRunning (afterStep w s) = true)).1
    rw [tbu] at fires
    refine ⟨afterLate w s, takeTimelineValue (afterStep w s), endOfWalk s, afterLate_eq w s, ?_, ?_,
      exec_endOfWalk no_limit⟩
    · rw [← afterStep_eq]
      exact fires
    · rw [endOfWalk_eq walk finished]
      exact takeHeld_heldTaken allPorts _
  · rw [runAgendaCommand, runStepTime_refused refused]
    simp [complete, working, State.setPort]
  · rw [runAgendaCommand, runStepTime_taken taken]
    exact ⟨by simp, by simp, fun r => takeStep_attn p r target x, by simp, by simp, by simp, by simp, by simp, by simp,
      by simp, by simp [stepWalk]⟩

end Sys2Proof.Machine
end

section
/-! PROOFS. What a row can do: every command is completed after one change of the state, resets its port, takes a step, or
is held (R80, R81, R174 to R179, R183), and every release of select judges one frame (R171). -/

-- One proof after the other: the memory limit of the check bounds the threads of Lean.
set_option Elab.async false

namespace Sys2Proof.Machine

/-! ### The changes that commands make -/

/-- The state after an accepted SET_PROFILE, before it is answered (R120, R153). -/
def profileSet (t : Port) (r : Profile) (x : State) : State :=
  let y := handFlag .profile t (x.setPru { x.pru with profiles := x.pru.profiles.set t r })
  if isHolder x t && !r.maySteer then loseLease y else y

/-- The state after an accepted SET_STROBE_MAP, before it is answered (R144, R155). -/
def mapSet (m : PerLine StrobeRecord) (x : State) : State :=
  { x with
    pru := { x.pru with strobeMap := m }
    strobes :=
      ⟨lineAfterMap x.pru.strobeMap.l0 m.l0 x.strobes.l0, lineAfterMap x.pru.strobeMap.l1 m.l1 x.strobes.l1,
        lineAfterMap x.pru.strobeMap.l2 m.l2 x.strobes.l2, lineAfterMap x.pru.strobeMap.l3 m.l3 x.strobes.l3⟩ }

/-- What a command of port `p` changes before it is answered. -/
inductive CommandChange (p : Port) (x : State) : State → Prop
  | nothing : CommandChange p x x
  | leaseGranted (d : Nat) : (x.pru.profiles.get p).maySteer = true → 1 ≤ d → d ≤ (x.pru.profiles.get p).maxLease.toNat →
      CommandChange p x (x.setLease (some ⟨p, x.tbu.mono + BitVec.ofNat 48 (leaseTicks d)⟩))
  | leaseReleased : CommandChange p x (x.setLease none)
  | slewSet (amount : Int) : -maxSlew ≤ amount → amount ≤ maxSlew →
      CommandChange p x (x.setTbu { x.tbu with slew := amount })
  | trimSet (trim : Int) : -maxTrim ≤ trim → trim ≤ maxTrim → CommandChange p x (x.setTbu { x.tbu with trim := trim })
  | entryCreated (payload : List Byte) (c : CreateCodes) (tm : Timing) (due : Time) (h : Handle) :
      isRunning x = true → judgeCreate x.tbu.timeline payload = .ok (c, tm, due) →
      ownedCount x p < (x.pru.profiles.get p).quota.toNat → freeSlot x p = some h →
      CommandChange p x (putSlot h (some (newEntry p (BitVec.ofNat 16 (numField payload 0 2)) c tm due)) x)
  | entryCancelled (h : Handle) (e : Entry) : isRunning x = true → slot x h = some e → e.owner = p → isEnded e = false →
      CommandChange p x (cancelled h x)
  | noticesTaken (max : Nat) :
      CommandChange p x (replaceQueue p { x.queues.get p with notices := afterTaken max (x.queues.get p).notices } x)
  | noticesAcknowledged (i : Nat) : CommandChange p x (acknowledgedThrough p i x)
  | flagsCleared (set : BitVec 9) : CommandChange p x (flagsCleared p set x)
  | attentionSet (enables : BitVec 10) (mode : AttnMode) : inMain x = true →
      CommandChange p x (reconfigured p enables mode x)
  | attentionSetDark (enables : BitVec 10) (mode : AttnMode) : inMain x = false →
      CommandChange p x (x.setAttn p (configured enables mode (x.attn.get p)))
  | profileReplaced (payload : List Byte) (t : Port) (r : Profile) : profileAt payload 1 = some r →
      someAdmin (x.pru.profiles.set t r) = true → ownedCount x t ≤ r.quota.toNat → CommandChange p x (profileSet t r x)
  | mapReplaced (m : PerLine StrobeRecord) : CommandChange p x (mapSet m x)
  | otherReset (t : Port) : t ≠ p → CommandChange p x (portReset t x)

/-- What becomes of a command that port `p` has taken. -/
inductive CommandEnd (p : Port) (x : State) : State → Prop
  | completed (r : Result) (out : List Byte) (y : State) : CommandChange p x y → CommandEnd p x (complete p r out y)
  | reset : CommandEnd p x (portReset p x)
  | stepped (target : Time) : isRunning x = true → CommandEnd p x (takeStep p target x)
  | held (c : AgendaCommand) : isRunning x = false → CommandEnd p x (markHeld p true (setHeld p (some c) x))

namespace CommandEnd
variable {p : Port} {x : State}

theorem answered (r : Result) (out : List Byte) : CommandEnd p x (complete p r out x) := .completed r out x .nothing

theorem of_ite {c : Prop} [Decidable c] {a b : State} (holds : CommandEnd p x a) (fails : CommandEnd p x b) :
    CommandEnd p x (if c then a else b) := by
  split
  · exact holds
  · exact fails

/-! ### The commands of the AGU -/

theorem of_agendaCommand (running : isRunning x = true) (c : AgendaCommand) : CommandEnd p x (runAgendaCommand p c x) := by
  cases c with
  | step payload =>
    rw [runAgendaCommand]
    cases target : stepTarget x.tbu.timeline payload with
    | none =>
      rw [runStepTime_refused target]
      exact answered _ _
    | some t =>
      rw [runStepTime_taken target]
      exact .stepped t running
  | create payload =>
    rw [runAgendaCommand]
    cases judged : judgeCreate x.tbu.timeline payload with
    | error r =>
      rw [runCreateEntry_refused judged]
      exact answered _ _
    | ok y =>
      obtain ⟨c, tm, due⟩ := y
      by_cases full : (x.pru.profiles.get p).quota.toNat ≤ ownedCount x p
      · rw [runCreateEntry_of_quota judged full]
        exact answered _ _
      · have quota := Nat.not_le.mp full
        cases free : freeSlot x p with
        | none =>
          rw [runCreateEntry_of_no_slot judged quota free]
          exact answered _ _
        | some h =>
          rw [runCreateEntry_accepted judged quota free]
          exact .completed _ _ _ (.entryCreated payload c tm due h running judged quota free)
  | cancel payload =>
    simp only [runAgendaCommand, runCancelEntry]
    split
    · exact answered _ _
    · next h e named =>
      split
      · exact answered _ _
      · next own =>
        split
        · exact answered _ _
        · next armed =>
          obtain ⟨-, at_h⟩ := entryNamed_iff.mp named
          exact .completed _ _ _ (.entryCancelled h e running at_h (not_not.mp own) (by simpa using armed))
  | query payload =>
    simp only [runAgendaCommand, runQueryEntry]
    split
    · exact answered _ _
    · split <;> exact answered _ _
  | listOwn => exact answered _ _

theorem of_handToAgenda (c : AgendaCommand) : CommandEnd p x (handToAgenda p c x) := by
  cases running : isRunning x with
  | true =>
    rw [handToAgenda_of_running running]
    exact of_agendaCommand running c
  | false =>
    rw [handToAgenda_of_walk running]
    exact .held c running

/-! ### The commands of the other blocks -/

theorem of_withAuthority {run : State → State} (runs : CommandEnd p x (run x)) : CommandEnd p x (withAuthority p run x) := by
  unfold withAuthority
  split
  · exact runs
  · exact answered _ _

theorem of_withAdmin {run : State → State} (runs : CommandEnd p x (run x)) : CommandEnd p x (withAdmin p run x) := by
  unfold withAdmin
  split
  · exact runs
  · exact answered _ _

theorem of_claim (payload : List Byte) : CommandEnd p x (runClaimAuthority p payload x) := by
  have granted : (x.pru.profiles.get p).maySteer = true →
      ¬ (numField payload 0 2 = 0 ∨ (x.pru.profiles.get p).maxLease.toNat < numField payload 0 2) → ∀ out,
      CommandEnd p x (complete p .ok out
        (x.setLease (some ⟨p, x.tbu.mono + BitVec.ofNat 48 (leaseTicks (numField payload 0 2))⟩))) :=
    fun right duration out => .completed _ _ _ (.leaseGranted _ right (by omega) (by omega))
  simp only [runClaimAuthority]
  split_ifs with right duration
  · exact answered _ _
  · exact answered _ _
  · have right : (x.pru.profiles.get p).maySteer = true := by simpa using right
    split
    · exact granted right duration _
    · split
      · exact granted right duration _
      · exact answered _ _

theorem of_release : CommandEnd p x (runReleaseAuthority p x) := by
  unfold runReleaseAuthority
  split
  · exact .completed _ _ _ .leaseReleased
  · exact answered _ _

theorem of_slew (payload : List Byte) : CommandEnd p x (runSlewTime p payload x) := by
  simp only [runSlewTime]
  split_ifs with outside
  · exact answered _ _
  · exact .completed _ _ _ (.slewSet _ (by omega) (by omega))

theorem of_trim (payload : List Byte) : CommandEnd p x (runSetTrim p payload x) := by
  simp only [runSetTrim]
  split_ifs with outside
  · exact answered _ _
  · exact .completed _ _ _ (.trimSet _ (by omega) (by omega))

theorem of_takeNotices (payload : List Byte) : CommandEnd p x (runTakeNotices p payload x) := by
  simp only [runTakeNotices]
  split
  · exact answered _ _
  · exact .completed _ _ _ (.noticesTaken _)

theorem of_ackNotices (payload : List Byte) : CommandEnd p x (runAckNotices p payload x) := by
  cases named : deliveredIndex (BitVec.ofNat 16 (numField payload 0 2)) (x.queues.get p).notices with
  | none =>
    simp only [runAckNotices, named]
    exact answered _ _
  | some i =>
    rw [runAckNotices_of_index named]
    exact .completed _ _ _ (.noticesAcknowledged i)

theorem of_clearFlags (payload : List Byte) : CommandEnd p x (runClearFlags p payload x) := by
  simp only [runClearFlags]
  split
  · exact answered _ _
  · have cleared : clearedFlags (BitVec.ofNat 9 (numField payload 0 2)) (x.attn.get p) = _ := rfl
    have change := CommandChange.flagsCleared (p := p) (x := x) (BitVec.ofNat 9 (numField payload 0 2))
    refine .completed _ _ _ ?_
    simpa only [Machine.flagsCleared, clearedFlags, BitVec.getLsbD_and, Bool.and_eq_true] using change

theorem of_setAttention (payload : List Byte) : CommandEnd p x (runSetAttention p payload x) := by
  simp only [runSetAttention]
  split
  · exact answered _ _
  · next mode _ =>
    split
    · exact answered _ _
    · refine .completed _ _ _ ?_
      cases main : inMain x with
      | true =>
        have change := CommandChange.attentionSet (p := p) (BitVec.ofNat 10 (numField payload 0 2)) mode main
        simpa [reconfigured, reconfiguredAttn, configured, State.setAttn] using change
      | false =>
        rw [if_neg Bool.false_ne_true]
        exact .attentionSetDark _ mode main

theorem of_setProfile (payload : List Byte) : CommandEnd p x (runSetProfile p payload x) := by
  simp only [runSetProfile]
  split
  · next t r _ record =>
    split
    · exact answered _ _
    · next admin =>
      split
      · exact answered _ _
      · next quota =>
        exact .completed _ _ _ (.profileReplaced payload t r record (by simpa using admin) (Nat.not_lt.mp quota))
  · exact answered _ _

theorem of_setStrobeMap (payload : List Byte) : CommandEnd p x (runSetStrobeMap p payload x) := by
  simp only [runSetStrobeMap]
  split
  · exact answered _ _
  · exact .completed _ _ _ (.mapReplaced _)

theorem of_resetPort (payload : List Byte) : CommandEnd p x (runResetPort p payload x) := by
  simp only [runResetPort]
  split
  · exact answered _ _
  · split_ifs with own
    · exact .reset
    · exact .completed _ _ _ (.otherReset _ own)

theorem of_readProfile (payload : List Byte) : CommandEnd p x (runReadProfile p payload x) := by
  simp only [runReadProfile]
  split <;> exact answered _ _

end CommandEnd

/-- A command that was taken ends in one of four ways (R80, R81, R177 to R179, R183). -/
theorem commandEnd_judgeCommand (p : Port) (code : Byte) (payload : List Byte) (x : State) :
    CommandEnd p x (judgeCommand p code payload x) := by
  unfold judgeCommand
  split
  · exact .answered _ _
  · split
    · unfold runCommand
      exact .of_ite (.answered _ _) <| .of_ite .reset <| .of_ite (.answered _ _) <| .of_ite (.answered _ _) <|
        .of_ite (.of_claim payload) <| .of_ite .of_release <| .of_ite (.of_withAuthority (.of_handToAgenda _)) <|
        .of_ite (.of_withAuthority (.of_slew payload)) <| .of_ite (.of_withAuthority (.of_trim payload)) <|
        .of_ite (.of_handToAgenda _) <| .of_ite (.of_handToAgenda _) <| .of_ite (.of_handToAgenda _) <|
        .of_ite (.of_handToAgenda _) <| .of_ite (.of_takeNotices payload) <| .of_ite (.of_ackNotices payload) <|
        .of_ite (.answered _ _) <| .of_ite (.of_clearFlags payload) <| .of_ite (.of_setAttention payload) <|
        .of_ite (.of_readProfile payload) <| .of_ite (.of_withAdmin (.of_setProfile payload)) <|
        .of_ite (.of_withAdmin (.of_setStrobeMap payload)) <|
        .of_ite (.of_withAdmin (.of_resetPort payload)) (.answered _ _)
    · exact .answered _ _

/-! ### The release of select (R171 to R174) -/

/-- The part once select is released at a port after these further bytes, before the frame is judged (R165, R171). -/
def selectReleased (p : Port) (bytes : List Byte) (s : State) : State := s.setPort p (releasedCtl (s.ports.get p) bytes)

/-- What the release of select at port `p` does. -/
inductive ReleaseEnd (p : Port) (bytes : List Byte) (s : State) : State → Prop
  | notSelected : (s.ports.get p).select = false → ReleaseEnd p bytes s s
  | unjudged : (s.ports.get p).select = true → ReleaseEnd p bytes s (selectReleased p bytes s)
  | frameError (cause : FrameCause) : (s.ports.get p).select = true → isOffline (s.ports.get p) = false → cause ≠ .none →
      ReleaseEnd p bytes s (frameErrorAt p cause (selectReleased p bytes s))
  | command (code seq : Byte) (payload : List Byte) (t : State) : (s.ports.get p).select = true →
      acceptsRequest (s.ports.get p).state = true →
      CommandEnd p (takeCommand p code seq payload (selectReleased p bytes s)) t → ReleaseEnd p bytes s t

theorem judgeReceived_error {r : Received} {bits : Fin 8} {cause : FrameCause} (judged : judgeReceived r bits = .error cause) :
    cause ≠ .none := by
  rintro rfl
  unfold judgeReceived at judged
  split at judged
  · simp at judged
  · split_ifs at judged with collect other
    · simp at judged
    · split at judged
      · dsimp only at judged
        split_ifs at judged <;> simp at judged
      · simp at judged

theorem releaseEnd_releaseSelect (p : Port) (bytes : List Byte) (bits : Fin 8) (s : State) :
    ReleaseEnd p bytes s (releaseSelect p bytes bits s) := by
  simp only [releaseSelect]
  split
  · next selected =>
    split
    · next limit snap received _ =>
      split
      · exact .unjudged selected
      · next judged =>
        have online : isOffline (s.ports.get p) = false := by
          rw [Bool.or_eq_true, not_or] at judged
          simpa using judged.1
        have state : ((selectReleased p bytes s).ports.get p).state = (s.ports.get p).state := by
          simp [selectReleased, releasedCtl]
        change ReleaseEnd p bytes s (judgeTransaction p _ bits (selectReleased p bytes s))
        unfold judgeTransaction
        split
        · next cause error => exact .frameError cause selected online (judgeReceived_error error)
        · exact .unjudged selected
        · next code seq payload _ =>
          unfold judgeRequest
          rw [state]
          cases is : (s.ports.get p).state with
          | notReady => exact .frameError .notReady selected online (by simp)
          | working c => exact .frameError .busy selected online (by simp)
          | idle => exact .command code seq payload _ selected (by simp [is, acceptsRequest]) (commandEnd_judgeCommand _ _ _ _)
          | done r => exact .command code seq payload _ selected (by simp [is, acceptsRequest]) (commandEnd_judgeCommand _ _ _ _)
          | offline => exact .unjudged selected
    · exact .unjudged selected
  · next none => exact .notSelected (by simpa using none)

end Sys2Proof.Machine
end

section
/-! PROOFS. The port reset (R56, R57, R85, R91, R96, R106 to R108, R121, R140, R148, R184). -/

-- One proof after the other: the memory limit of the check bounds the threads of Lean.
set_option Elab.async false

namespace Sys2Proof.Machine

/-! ### The entries and the queue of the port -/

/-- What a port reset makes of an entry before the drain: those of the port with persist NO go, the others take their notices
back (R56, R107). -/
def resetEntry (p : Port) (queue : List Notice) (h : Handle) (e : Entry) : Option Entry :=
  if e.owner = p then (if e.persist then some (e.withParts (mergedParts queue h e.parts)) else none) else some e

/-- An entry that a port reset of this port frees (R56). -/
def isVolatile (p : Port) (_ : Handle) (x : Option Entry) : Bool := x.any fun e => e.owner == p && !e.persist

theorem freeVolatile_eq (p : Port) (s : State) : freeVolatile p s = freeWhere (isVolatile p) s := rfl

theorem foldl_mergeBack (p : Port) (queue : List Notice) (l : List Handle) (nodup : l.Nodup) (s : State) (g : Handle) :
    slot (l.foldl (fun s h => if ownedBy s p h then updateParts h (mergedParts queue h) s else s) s) g =
      (slot s g).map fun e =>
        if g ∈ l ∧ e.owner = p then e.withParts (mergedParts queue g e.parts) else e := by
  induction l generalizing s with
  | nil => simp
  | cons h l ih =>
    obtain ⟨fresh, nodup'⟩ := List.nodup_cons.mp nodup
    rw [List.foldl_cons, ih nodup']
    by_cases same : g = h
    · subst same
      cases at_g : slot s g with
      | none =>
        have unowned : ownedBy s p g = false := by simp [ownedBy, at_g]
        simp [unowned, at_g]
      | some e =>
        by_cases own : e.owner = p
        · have owned : ownedBy s p g = true := by simp [ownedBy, at_g, own]
          simp [owned, at_g, own, fresh]
        · have unowned : ownedBy s p g = false := by simp [ownedBy, at_g, own]
          simp [unowned, at_g, own]
    · have other : slot (if ownedBy s p h then updateParts h (mergedParts queue h) s else s) g = slot s g := by
        split <;> simp [same]
      rw [other]
      simp [same]

/-- The part at a port reset once the queue is emptied, the volatile entries are freed and the notices are merged back,
before the drain (R56, R106, R107). -/
def mergedReset (p : Port) (s : State) : State :=
  mergeBack p (s.queues.get p).notices (freeVolatile p (replaceQueue p ⟨[], 0⟩ s))

theorem resetNotices_eq (p : Port) (s : State) : resetNotices p s = releaseEnded p (drain p (mergedReset p s)) := rfl

theorem slot_mergedReset (p : Port) (s : State) (h : Handle) :
    slot (mergedReset p s) h = (slot s h).bind (resetEntry p (s.queues.get p).notices h) := by
  rw [mergedReset, mergeBack, foldl_mergeBack p _ allHandles allHandles_nodup, freeVolatile_eq, slot_freeWhere,
    slot_replaceQueue]
  cases slot s h with
  | none => simp
  | some e =>
    by_cases own : e.owner = p <;> cases persist : e.persist <;>
      simp [isVolatile, resetEntry, own, persist, mem_allHandles]

theorem mergeBack_same (p : Port) (queue : List Notice) (s : State) :
    SameButAgu s (mergeBack p queue s) ∧ (mergeBack p queue s).agu.agenda = s.agu.agenda := by
  rw [mergeBack]
  exact foldl_keeps (P := fun t => SameButAgu s t ∧ t.agu.agenda = s.agu.agenda) _ allHandles s
    (fun t h ⟨same, agenda⟩ => by
      split
      · exact ⟨same.trans (updateParts_same h _ t), by simpa using agenda⟩
      · exact ⟨same, agenda⟩) ⟨.refl s, rfl⟩

theorem freeVolatile_same (p : Port) (s : State) :
    SameButAgu s (freeVolatile p s) ∧ (freeVolatile p s).agu.state = s.agu.state ∧
      (freeVolatile p s).agu.held = s.agu.held ∧
      (freeVolatile p s).agu.agenda = s.agu.agenda.filter fun h => !isVolatile p h (slot s h) := by
  rw [freeVolatile_eq]
  exact ⟨freeWhere_same _ s, freeWhere_agu _ s⟩

theorem freeVolatile_work (p : Port) (s : State) : AgendaWork s (freeVolatile p s) := by
  obtain ⟨⟨tbu, lease, -, attn, -, pru, ports, spm, draws, pending⟩, state, held, -⟩ := freeVolatile_same p s
  exact ⟨tbu, lease, pru, ports, spm, draws, pending, state, held, fun r => by rw [attn]; simp⟩

/-- What the merge reaches: the store, the agenda, the port's queue and its attention line. -/
theorem mergedReset_frame (p : Port) (s : State) :
    AgendaWork s (mergedReset p s) ∧ (mergedReset p s).queues = s.queues.set p ⟨[], 0⟩ ∧
      (mergedReset p s).strobes = s.strobes ∧ (∀ r, r ≠ p → (mergedReset p s).attn.get r = s.attn.get r) ∧
      (mergedReset p s).agu.agenda = s.agu.agenda.filter fun h => !isVolatile p h (slot s h) := by
  have emptied := replaceQueue_work p ⟨[], 0⟩ s
  generalize before : replaceQueue p ⟨[], 0⟩ s = t at emptied
  obtain ⟨freed, -, -, removed⟩ := freeVolatile_same p t
  obtain ⟨merged, agenda⟩ := mergeBack_same p (s.queues.get p).notices (freeVolatile p t)
  obtain ⟨-, -, queues, attn, strobes, -⟩ := freed.trans merged
  rw [mergedReset, before]
  refine ⟨emptied.trans ((freeVolatile_work p t).trans (mergeBack_work _ _ _)), ?_, ?_, fun r other => ?_, ?_⟩
  · rw [queues, ← before, replaceQueue_frame _ _ _ |>.2.2.2.1]
  · rw [strobes, ← before]
    simp
  · rw [attn, ← before, replaceQueue, followAttention_other _ _ _ _ other]
    simp
  · rw [agenda, removed, ← before]
    simp

/-! ### The parts merged back (R107) -/

theorem combineAll_toList (l : List Report) :
    (combineAll l).toList = match l with
      | [] => []
      | r :: rest => [rest.foldl combine r] := by
  cases l <;> rfl

theorem find_or_toList {α : Type} (f : α → Bool) (l : List α) (o : Option α) :
    ((l.find? f).or o).toList = (l.filter f ++ o.toList).take 1 := by
  rw [← List.head?_filter]
  cases l.filter f with
  | nil => cases o <;> rfl
  | cons a l => rfl

/-- The pending parts after the merge are those that R107 names, in the order of the drain (R96, R107). -/
theorem pendingParts_mergedReset (p : Port) (s : State) : pendingParts p (mergedReset p s) = mergedBack p s := by
  refine List.flatMap_congr fun h _ => ?_
  rw [slot_mergedReset]
  cases slot s h with
  | none => rfl
  | some e =>
    by_cases own : e.owner = p
    · cases persist : e.persist
      · simp [resetEntry, own, persist]
      · simp only [Option.bind_some, resetEntry, own, persist, if_true, Entry.withParts_keeps, mergedParts,
          combineAll_toList, find_or_toList, Entry.parts, and_self] <;> rfl
    · simp [resetEntry, own]

theorem combineAll_fires (l : List Report) :
    summaryFires (combineAll l) = min ((l.map fun r => r.fires.toNat).sum) 65535 := by
  cases l with
  | nil => rfl
  | cons r rest =>
    simp only [combineAll, summaryFires, List.map_cons, List.sum_cons]
    induction rest generalizing r with
    | nil =>
      have small := r.fires.isLt
      simp
      omega
    | cons x rest ih =>
      rw [List.foldl_cons, ih, combine_fires, List.map_cons, List.sum_cons]
      omega

theorem mergedParts_reference {queue : List Notice} {h : Handle} {x : EntryParts}
    (reference : (∃ n ∈ queue, n.handle = h) ∨ x.summary ≠ none ∨ x.terminal ≠ none) :
    (mergedParts queue h x).summary ≠ none ∨ (mergedParts queue h x).terminal ≠ none := by
  have summary_some : ∀ l : List Report, l ≠ [] → combineAll l ≠ none := fun l some => by
    cases l with
    | nil => exact absurd rfl some
    | cons r rest => simp [combineAll]
  simp only [mergedParts]
  rcases reference with ⟨n, hn, own⟩ | summary | terminal
  · have inside : n.report ∈ (queue.filter fun n => n.handle == h).map (·.report) :=
      List.mem_map.mpr ⟨n, List.mem_filter.mpr ⟨hn, by simp [own]⟩, rfl⟩
    by_cases fired : n.report.reason = .fired
    · refine .inl (summary_some _ fun empty => ?_)
      have at_n : n.report ∈ ((queue.filter fun n => n.handle == h).map (·.report)).filter fun r => r.reason == .fired :=
        List.mem_filter.mpr ⟨inside, by simp [fired]⟩
      rw [(List.append_eq_nil_iff.mp empty).1] at at_n
      simp at at_n
    · refine .inr fun empty => ?_
      have absent := (Option.or_eq_none_iff.mp empty).1
      exact List.find?_eq_none.mp absent n.report inside (by simpa using fired)
  · refine .inl (summary_some _ fun empty => summary ?_)
    simpa using (List.append_eq_nil_iff.mp empty).2
  · exact .inr fun empty => terminal (Option.or_eq_none_iff.mp empty).2

/-! ### The drain after the merge -/

theorem noticesOf_eq_nil_iff (h : Handle) (q : NoticeQueue) : noticesOf h q = [] ↔ ∀ n ∈ q.notices, n.handle ≠ h := by
  simp [noticesOf]

theorem fst_of_mem_partsAt {p : Port} {s : State} {h : Handle} {y : Handle × Half × Report} (inside : y ∈ partsAt p s h) :
    y.1 = h := by
  unfold partsAt at inside
  split at inside
  · split at inside
    · obtain ⟨r, -, rfl⟩ := List.mem_map.mp inside
      rfl
    · simp at inside
  · simp at inside

theorem mem_pendingParts (p : Port) (s : State) (y : Handle × Half × Report) :
    y ∈ pendingParts p s ↔ y ∈ partsAt p s y.1 := by
  rw [pendingParts_eq, List.mem_flatMap]
  constructor
  · rintro ⟨h, -, inside⟩
    rwa [fst_of_mem_partsAt inside]
  · exact fun inside => ⟨y.1, mem_allHandles y.1, inside⟩

/-- A part that is pending before a drain is a reference of its entry after it (R48, R96). -/
theorem hasReference_drain {p : Port} {s : State} {h : Handle} {e e' : Entry} (at_h : slot s h = some e) (own : e.owner = p)
    (parts : e.summary ≠ none ∨ e.terminal ≠ none) (after : slot (drain p s) h = some e') (own' : e'.owner = p) :
    hasReference (drain p s) h e' = true := by
  obtain ⟨drained, rest⟩ := drain_drained p s
  have some : partsAt p s h ≠ [] := fun empty => by
    rw [partsAt_of_owned at_h own, List.map_eq_nil_iff, List.append_eq_nil_iff] at empty
    rcases parts with summary | terminal
    · exact summary (by simpa using empty.1)
    · exact terminal (by simpa using empty.2)
  obtain ⟨x, here⟩ := List.exists_mem_of_ne_nil _ some
  have same := fst_of_mem_partsAt here
  subst same
  have pending := (mem_pendingParts p s x).mpr here
  rw [← List.take_append_drop (roomOf p s) (pendingParts p s), ← rest, List.mem_append] at pending
  rw [hasReference_iff, own']
  rcases pending with moved | stays
  · refine .inl fun empty => ?_
    rw [noticesOf_eq_nil_iff, drained.queue] at empty
    obtain ⟨i, hi, at_i⟩ := List.mem_iff_getElem.mp moved
    have notice : ⟨(s.queues.get p).nextSeq + BitVec.ofNat 16 i, x.1, x.2.1, x.2.2, false⟩ ∈
        asNotices (s.queues.get p).nextSeq ((pendingParts p s).take (roomOf p s)) :=
      List.mem_mapIdx.mpr ⟨i, hi, by rw [at_i]⟩
    exact empty _ (List.mem_append_right _ notice) rfl
  · refine .inr ?_
    have left := (mem_pendingParts p _ x).mp stays
    rw [partsAt_of_owned after own'] at left
    by_contra none
    rw [not_or, not_not, not_not] at none
    simp [none.1, none.2] at left

theorem releaseEnded_of_kept {p : Port} {s : State}
    (kept : ∀ h e, slot s h = some e → e.owner = p → isEnded e = false ∨ hasReference s h e = true) :
    releaseEnded p s = s := by
  have visit : ∀ h, (if ownedBy s p h then releaseIfDone h s else s) = s := fun h => by
    split
    · next owned =>
      obtain ⟨e, at_h, own⟩ := (ownedBy_iff s p h).mp owned
      exact releaseIfDone_of_kept at_h (kept h e at_h own)
    · rfl
  have all : ∀ l : List Handle, l.foldl (fun s h => if ownedBy s p h then releaseIfDone h s else s) s = s := fun l => by
    induction l with
    | nil => rfl
    | cons h l ih => rw [List.foldl_cons, visit h, ih]
  exact all allHandles

section Reset
variable {p : Port} {s : State} {h : Handle} {e : Entry}

theorem slot_mergedReset_own (at_h : slot s h = some e) (own : e.owner = p) (persist : e.persist = true) :
    slot (mergedReset p s) h = some (e.withParts (mergedParts (s.queues.get p).notices h e.parts)) := by
  rw [slot_mergedReset, at_h]
  simp [resetEntry, own, persist]

theorem slot_mergedReset_inv {x : Entry} (after : slot (mergedReset p s) h = some x) :
    ∃ e, slot s h = some e ∧ ((e.owner ≠ p ∧ x = e) ∨ (e.owner = p ∧ e.persist = true ∧
      x = e.withParts (mergedParts (s.queues.get p).notices h e.parts))) := by
  rw [slot_mergedReset] at after
  obtain ⟨e, at_h, moved⟩ := Option.bind_eq_some_iff.mp after
  refine ⟨e, at_h, ?_⟩
  unfold resetEntry at moved
  split_ifs at moved with own persist
  · exact .inr ⟨own, persist, (Option.some.inj moved).symm⟩
  · exact .inl ⟨own, (Option.some.inj moved).symm⟩

/-- After the drain of a port reset no entry of the port is ENDED without a reference, so R48 frees none (R48, R107). -/
theorem resetNotices_drained (references : EndedHasReference s) : resetNotices p s = drain p (mergedReset p s) := by
  rw [resetNotices_eq]
  refine releaseEnded_of_kept fun h x at_x own => ?_
  cases ended : isEnded x with
  | false => exact .inl rfl
  | true =>
    refine .inr ?_
    have drained := (drain_drained p (mergedReset p s)).1
    cases before : slot (mergedReset p s) h with
    | none => simp [drained.free h before] at at_x
    | some y =>
      obtain ⟨x', at_x', fixed, status, -⟩ := drained.entries h y before
      rw [at_x] at at_x'
      cases at_x'
      have owner : y.owner = p := fixed.1.symm.trans own
      obtain ⟨e, at_e, ⟨other, rfl⟩ | ⟨own_e, -, rfl⟩⟩ := slot_mergedReset_inv before
      · exact absurd owner other
      · refine hasReference_drain before owner ?_ at_x own
        have alive : isEnded e = true := by
          simp only [isEnded, dueOf, status] at ended ⊢
          exact ended
        have reference := (hasReference_iff s h e).mp (references h e at_e alive)
        rw [own_e] at reference
        simp only [Entry.withParts_keeps]
        refine mergedParts_reference (reference.imp_left fun some => ?_)
        rw [Ne, noticesOf_eq_nil_iff] at some
        push Not at some
        exact some

end Reset

end Sys2Proof.Machine
end

section
/-! PROOFS. What a port reset leaves (R56, R85, R106 to R108, R121, R140, R148, R184). -/

-- One proof after the other: the memory limit of the check bounds the threads of Lean.
set_option Elab.async false

namespace Sys2Proof.Machine

/-! ### The Port Controller, the walk and the held command -/

/-- The part once a port reset has reached the Port Controller, the held command and the walk record (R85, R184). -/
def detached (p : Port) (s : State) : State := dropWantedResponse (some p) (setHeld p none (resetPortController p s))

/-- A Port Controller after its port reset (R168, R184). -/
def idlePort (c : PortCtl) : PortCtl :=
  { c with
    state := .idle
    receiver :=
      match c.receiver with
      | .receiving _ _ _ => .discarding
      | r => r }

theorem resetPortController_eq (p : Port) (s : State) :
    resetPortController p s = s.setPort p (idlePort (s.ports.get p)) := by
  unfold resetPortController setPortState discardTransaction idlePort
  cases h : (s.ports.get p).receiver <;> simp [h, State.setPort]

theorem detached_frame (p : Port) (s : State) :
    (detached p s).tbu = s.tbu ∧ (detached p s).lease = s.lease ∧ (detached p s).queues = s.queues ∧
      (detached p s).attn = s.attn ∧ (detached p s).strobes = s.strobes ∧ (detached p s).pru = s.pru ∧
      (detached p s).spm = s.spm ∧ (detached p s).draws = s.draws ∧ (detached p s).pending = s.pending ∧
      (detached p s).agu.store = s.agu.store ∧ (detached p s).agu.agenda = s.agu.agenda := by
  unfold detached
  rw [resetPortController_eq]
  simp

theorem detached_ports (p : Port) (s : State) : (detached p s).ports = s.ports.set p (idlePort (s.ports.get p)) := by
  unfold detached
  rw [resetPortController_eq]
  simp [State.setPort]

theorem detached_held (p : Port) (s : State) : (detached p s).agu.held = s.agu.held.set p none := by
  unfold detached
  rw [resetPortController_eq]
  simp [setHeld]

theorem walkOf_detached (p : Port) (s : State) : walkOf (detached p s) = (walkOf s).map (unwanted (some p)) := by
  unfold detached
  rw [resetPortController_eq, walkOf_dropWantedResponse]
  rfl

theorem slot_detached (p : Port) (s : State) (h : Handle) : slot (detached p s) h = slot s h :=
  slot_congr (detached_frame p s).2.2.2.2.2.2.2.2.2.1 h

theorem queue_detached (p r : Port) (s : State) : (detached p s).queues.get r = s.queues.get r := by
  rw [(detached_frame p s).2.2.1]

/-! ### The attention line and the lease -/

/-- The ASU state of a port after its port reset (R121, R140). -/
def resetLine (lost : Bool) : Attn :=
  ⟨flagBit .portReset ||| (if lost = true then flagBit .leaseLost else 0), .none, 0, .level, none, .released⟩

/-- With no source enabled a flag reaches no line (R132, R135). -/
theorem handFlag_attn_silent {f : Flag} {p : Port} {s : State} {bits : BitVec 9}
    (silent : s.attn.get p = ⟨bits, .none, 0, .level, none, .released⟩) :
    (handFlag f p s).attn = s.attn.set p ⟨bits ||| flagBit f, .none, 0, .level, none, .released⟩ := by
  rw [handFlag_eq_set]
  refine congrArg (s.attn.set p) ?_
  rw [handFlag, followAttention_self]
  simp only [State.setAttn_attn, PerPort.get_set_self, attnCondition, silent]
  split
  · rw [answeredLine_level _ _ _ rfl]
    simp [levelLine]
  · rfl

theorem resetLease_frame (p : Port) (s : State) :
    (resetLease p (resetAttention p s)).tbu = s.tbu ∧ (resetLease p (resetAttention p s)).agu = s.agu ∧
      (resetLease p (resetAttention p s)).queues = s.queues ∧ (resetLease p (resetAttention p s)).strobes = s.strobes ∧
      (resetLease p (resetAttention p s)).pru = s.pru ∧ (resetLease p (resetAttention p s)).ports = s.ports ∧
      (resetLease p (resetAttention p s)).spm = s.spm ∧ (resetLease p (resetAttention p s)).draws = s.draws ∧
      (resetLease p (resetAttention p s)).pending = s.pending := by
  unfold resetLease
  split <;> simp [resetAttention]

theorem isHolder_resetAttention (p : Port) (s : State) : isHolder (resetAttention p s) p = isHolder s p := isHolder_congr rfl p

theorem resetLease_lease (p : Port) (s : State) :
    (resetLease p (resetAttention p s)).lease = if isHolder s p = true then none else s.lease := by
  unfold resetLease
  rw [isHolder_resetAttention]
  split <;> simp [resetAttention]

theorem resetLease_attn {p : Port} (s : State) :
    (resetLease p (resetAttention p s)).attn = s.attn.set p (resetLine (isHolder s p)) := by
  unfold resetLease
  rw [isHolder_resetAttention]
  cases holder : isHolder s p with
  | false => simp [resetAttention, resetLine, Attn.defaults]
  | true =>
    obtain ⟨l, held, rfl⟩ := (isHolder_eq_true s p).mp holder
    rw [if_pos rfl, loseLease, show (resetAttention l.holder s).lease = some l from held]
    have silent : ((resetAttention l.holder s).setLease none).attn.get l.holder =
        ⟨flagBit .portReset, .none, 0, .level, none, .released⟩ := by simp [resetAttention, Attn.defaults]
    dsimp only
    rw [handFlag_attn_silent silent]
    simp [resetAttention, resetLine]

/-! ### The whole port reset -/

theorem portReset_eq (p : Port) (s : State) :
    portReset p s = resetLease p (resetAttention p (resetNotices p (detached p s))) := rfl

theorem mergedBack_detached (p : Port) (s : State) : mergedBack p (detached p s) = mergedBack p s := by
  simp only [mergedBack, slot_detached, queue_detached]

/-- The notices and the entries of a port reset: merged back, then drained (R96, R106, R107). -/
def drainedReset (p : Port) (s : State) : State := drain p (mergedReset p (detached p s))

theorem portReset_drained {p : Port} {s : State} (references : EndedHasReference s) :
    portReset p s = resetLease p (resetAttention p (drainedReset p s)) := by
  rw [portReset_eq, resetNotices_drained]
  · rfl
  · intro h e at_h ended
    rw [hasReference_congr (detached_frame p s).2.2.1]
    exact references h e (by rwa [slot_detached] at at_h) ended

theorem roomOf_mergedReset (p : Port) (s : State) : roomOf p (mergedReset p s) = 16 := by
  rw [roomOf, (mergedReset_frame p s).2.1]
  simp

theorem drainedReset_drained (p : Port) (s : State) :
    Drained p ((mergedBack p s).take 16) (mergedReset p (detached p s)) (drainedReset p s) ∧
      pendingParts p (drainedReset p s) = (mergedBack p s).drop 16 := by
  have both := drain_drained p (mergedReset p (detached p s))
  rwa [roomOf_mergedReset, pendingParts_mergedReset, mergedBack_detached] at both

theorem drainedReset_work (p : Port) (s : State) : AgendaWork (detached p s) (drainedReset p s) :=
  (mergedReset_frame p (detached p s)).1.trans (drainedReset_drained p s).1.line.work

/-- What a port reset leaves of each block; the entries and the notices are those of `drainedReset`. -/
theorem portReset_frame {p : Port} {s : State} (references : EndedHasReference s) :
    (portReset p s).tbu = s.tbu ∧ (portReset p s).pru = s.pru ∧ (portReset p s).spm = s.spm ∧
      (portReset p s).strobes = s.strobes ∧ (portReset p s).draws = s.draws ∧ (portReset p s).pending = s.pending ∧
      (portReset p s).ports = s.ports.set p (idlePort (s.ports.get p)) ∧
      (portReset p s).lease = (if isHolder s p = true then none else s.lease) ∧
      (portReset p s).attn = s.attn.set p (resetLine (isHolder s p)) ∧
      (portReset p s).queues = (drainedReset p s).queues ∧ (portReset p s).agu = (drainedReset p s).agu := by
  obtain ⟨tbu, lease, pru, ports, spm, draws, pending, -, -, -⟩ := drainedReset_work p s
  obtain ⟨tbu', lease', -, attn', strobes', pru', spm', draws', pending', -, -⟩ := detached_frame p s
  obtain ⟨drained, -⟩ := drainedReset_drained p s
  obtain ⟨-, -, strobes, others, -⟩ := mergedReset_frame p (detached p s)
  obtain ⟨t1, t2, t3, t4, t5, t6, t7, t8, t9⟩ := resetLease_frame p (drainedReset p s)
  have holder : isHolder (drainedReset p s) p = isHolder s p := isHolder_congr (lease.trans lease') p
  have shut : (drainedReset p s).attn.set p (resetLine (isHolder s p)) = s.attn.set p (resetLine (isHolder s p)) :=
    PerPort.ext_get fun r => by
      by_cases other : r = p
      · rw [other, PerPort.get_set_self, PerPort.get_set_self]
      · rw [PerPort.get_set_ne _ _ other, PerPort.get_set_ne _ _ other, drained.line.others r other, others r other, attn']
  rw [portReset_drained references]
  refine ⟨t1.trans (tbu.trans tbu'), t5.trans (pru.trans pru'), t7.trans (spm.trans spm'),
    t4.trans (drained.strobes.trans (strobes.trans strobes')), t8.trans (draws.trans draws'),
    t9.trans (pending.trans pending'), t6.trans (ports.trans (detached_ports p s)), ?_, ?_, t3, t2⟩
  · rw [resetLease_lease, holder, lease, lease']
  · rw [resetLease_attn, holder, shut]

end Sys2Proof.Machine
end

section
/-! PROOFS. The notices and the entries after a port reset (R56, R57, R89, R91, R96, R106 to R108). -/

-- One proof after the other: the memory limit of the check bounds the threads of Lean.
set_option Elab.async false

namespace Sys2Proof.Machine

/-! ### The fires of the merged parts (R91, R95, R107) -/

theorem sum_fires_of_fired {h : Handle} {queue : List Notice}
    (quiet : ∀ n ∈ queue, n.handle = h → n.report.reason ≠ .fired → n.report.fires = 0) :
    (((((queue.filter fun n => n.handle == h).map (·.report)).filter fun r => r.reason == .fired)).map
      fun r => r.fires.toNat).sum = noticeFires h queue := by
  induction queue with
  | nil => rfl
  | cons n queue ih =>
    have rest := ih fun m inside => quiet m (List.mem_cons_of_mem n inside)
    rw [noticeFires_cons, noticeFires_one, ← rest]
    by_cases same : n.handle = h
    · cases fired : n.report.reason == .fired with
      | true => simp [same, fired]
      | false =>
        have zero := quiet n List.mem_cons_self same (by simpa using fired)
        simp [same, fired, zero]
    · simp [same]

theorem mergedParts_fires {h : Handle} {queue : List Notice} (x : EntryParts)
    (quiet : ∀ n ∈ queue, n.handle = h → n.report.reason ≠ .fired → n.report.fires = 0) :
    summaryFires (mergedParts queue h x).summary = min (noticeFires h queue + summaryFires x.summary) 65535 := by
  have rest : ((x.summary.toList).map fun r => r.fires.toNat).sum = summaryFires x.summary := by
    cases x.summary <;> simp [summaryFires]
  rw [mergedParts, combineAll_fires, List.map_append, List.sum_append, sum_fires_of_fired quiet, rest]

theorem mergedParts_terminal {h : Handle} {queue : List Notice} {x : EntryParts} {r : Report}
    (terminal : (mergedParts queue h x).terminal = some r) :
    (∃ n ∈ queue, n.handle = h ∧ n.report = r ∧ r.reason ≠ .fired) ∨ x.terminal = some r := by
  rcases Option.or_eq_some_iff.mp terminal with found | ⟨-, pending⟩
  · obtain ⟨n, hn, rfl⟩ := List.mem_map.mp (List.mem_of_find?_eq_some found)
    obtain ⟨inside, own⟩ := List.mem_filter.mp hn
    exact .inl ⟨n, inside, by simpa using own, rfl, by simpa using List.find?_some found⟩
  · exact .inr pending

/-! ### The port reset, entry by entry -/

section Reset
variable {p : Port} {s : State}

theorem slot_merged_own {h : Handle} {e : Entry} (at_h : slot s h = some e) (own : e.owner = p) (persist : e.persist = true) :
    slot (mergedReset p (detached p s)) h =
      some (e.withParts (mergedParts (s.queues.get p).notices h e.parts)) := by
  rw [← slot_detached p] at at_h
  rw [slot_mergedReset_own at_h own persist, queue_detached]

theorem slot_merged_inv {h : Handle} {x : Entry} (after : slot (mergedReset p (detached p s)) h = some x) :
    ∃ e, slot s h = some e ∧ ((e.owner ≠ p ∧ x = e) ∨ (e.owner = p ∧ e.persist = true ∧
      x = e.withParts (mergedParts (s.queues.get p).notices h e.parts))) := by
  obtain ⟨e, at_h, kinds⟩ := slot_mergedReset_inv after
  rw [slot_detached] at at_h
  rw [queue_detached] at kinds
  exact ⟨e, at_h, kinds⟩

/-- The terminal pendings stand without fires after the merge as before (R94, R107). -/
theorem terminal_fires_merged (queues : QueuesInOrder s) (entries : EntriesInOrder s) (h : Handle) (x : Entry) (r : Report)
    (after : slot (mergedReset p (detached p s)) h = some x) (terminal : x.terminal = some r) : r.fires = 0 := by
  obtain ⟨e, at_h, ⟨-, rfl⟩ | ⟨own, -, rfl⟩⟩ := slot_merged_inv after
  · obtain ⟨-, -, -, -, ended, -⟩ := entries h x at_h
    exact (ended r terminal).2.1
  · have merged : (mergedParts (s.queues.get p).notices h e.parts).terminal = some r := terminal
    rcases mergedParts_terminal merged with ⟨n, inside, -, rfl, other⟩ | pending
    · obtain ⟨_, -, -, quiet⟩ := (queues p).2 n inside
      exact (quiet other).2
    · obtain ⟨-, -, -, -, ended, -⟩ := entries h e at_h
      exact (ended r pending).2.1

/-- The total of the fires of an entry that a port reset keeps (R91, R107). -/
theorem firesTotal_drainedReset (queues : QueuesInOrder s) (entries : EntriesInOrder s) {h : Handle} {e : Entry}
    (at_h : slot s h = some e) (own : e.owner = p) (persist : e.persist = true) :
    firesTotal p h (drainedReset p s) = min (firesTotal p h s) 65535 := by
  have total := ((drainedReset_drained p s).1.fires h fun x r => terminal_fires_merged queues entries h x r).1
  have quiet : ∀ n ∈ (s.queues.get p).notices, n.handle = h → n.report.reason ≠ .fired → n.report.fires = 0 :=
    fun n inside _ other => by
      obtain ⟨_, -, -, quiet⟩ := (queues p).2 n inside
      exact (quiet other).2
  rw [total, firesTotal_eq, firesTotal_eq, slot_merged_own at_h own persist, (mergedReset_frame p _).2.1,
    PerPort.get_set_self, at_h]
  have merged := mergedParts_fires e.parts quiet
  rw [Entry.parts] at merged
  simp [noticeFires, merged, Entry.parts]

/-- What becomes of each slot (R56, R57, R107). -/
theorem slot_drainedReset (h : Handle) :
    (slot s h = none → slot (drainedReset p s) h = none) ∧
      ∀ e, slot s h = some e →
        (e.owner ≠ p → slot (drainedReset p s) h = some e) ∧
        (e.owner = p → e.persist = false → slot (drainedReset p s) h = none) ∧
        (e.owner = p → e.persist = true →
          ∃ e', slot (drainedReset p s) h = some e' ∧ sameFixedFields e' e ∧ e'.status = e.status ∧
            e'.missed = e.missed) := by
  have drained := (drainedReset_drained p s).1
  have merged := slot_mergedReset p (detached p s) h
  rw [slot_detached] at merged
  refine ⟨fun free => drained.free h ?_, fun e at_h => ⟨fun other => ?_, fun own persist => drained.free h ?_,
    fun own persist => ?_⟩⟩
  · rw [merged, free]
    rfl
  · rw [at_h, Option.bind_some, resetEntry, if_neg other] at merged
    obtain ⟨e', after, -, -, -, same⟩ := drained.entries h e merged
    rwa [same other] at after
  · rw [merged, at_h, Option.bind_some, resetEntry, if_pos own, if_neg (by simp [persist])]
  · obtain ⟨e', after, fixed, status, missed, -⟩ := drained.entries h _ (slot_merged_own at_h own persist)
    exact ⟨e', after, fixed, status, missed⟩

theorem queue_drainedReset (p : Port) (s : State) :
    (drainedReset p s).queues.get p =
      ⟨asNotices 0 ((mergedBack p s).take 16), BitVec.ofNat 16 ((mergedBack p s).take 16).length⟩ ∧
    ∀ r, r ≠ p → (drainedReset p s).queues.get r = s.queues.get r := by
  have drained := (drainedReset_drained p s).1
  have merged := (mergedReset_frame p (detached p s)).2.1
  refine ⟨?_, fun r other => ?_⟩
  · rw [drained.queue, merged, PerPort.get_set_self, List.nil_append]
    exact congrArg _ (BitVec.zero_add _)
  · rw [drained.queues r other, merged, PerPort.get_set_ne _ _ other, queue_detached]

end Reset

/-- Settles O45: the port's queue is emptied, its entries with persist NO are freed, the others take its notices back, and
the drain fills the queue again; the blocks are those of `portReset_frame`. -/
theorem portResetClearsThePort : Obligations.PortResetClearsThePort := by
  intro p s queues entries references
  obtain ⟨tbu, pru, spm, strobes, draws, pending, ports, lease, attn, queue, agu⟩ := portReset_frame references (p := p)
  obtain ⟨-, -, -, -, -, -, -, state, held, -⟩ := drainedReset_work p s
  obtain ⟨own_queue, others⟩ := queue_drainedReset p s
  have slots : ∀ h, slot (portReset p s) h = slot (drainedReset p s) h := fun h => slot_congr (by rw [agu]) h
  have parts : pendingParts p (portReset p s) = pendingParts p (drainedReset p s) := by
    simp only [pendingParts, slots]
  refine ⟨tbu, pru, spm, strobes, draws, pending, ports, lease, attn, ?_, ?_, fun r other => ?_, fun i n at_i => ?_, ?_, ?_,
    ?_, fun h e at_h own persist => ?_, fun h => ?_⟩
  · rw [agu, held, detached_held]
  · rw [walkOf_congr (t := portReset p s) (s := detached p s) (by rw [agu, state]), walkOf_detached]
    refine congrArg (Option.map · (walkOf s)) (funext fun w => ?_)
    simp [unwanted, eq_comm]
  · rw [queue, others r other]
  · rw [queue, own_queue, asNotices, List.getElem?_mapIdx] at at_i
    obtain ⟨x, -, rfl⟩ := Option.map_eq_some_iff.mp at_i
    exact ⟨BitVec.zero_add _, rfl⟩
  · rw [queue, own_queue, asNotices, List.length_mapIdx]
  · rw [queue, own_queue]
  · rw [parts, (drainedReset_drained p s).2]
  · rw [firesTotal_eq, queue, slots, ← firesTotal_eq]
    exact firesTotal_drainedReset queues entries at_h own persist
  · rw [slots]
    exact slot_drainedReset h

end Sys2Proof.Machine
end

section
/-! PROOFS. The counts move only by their events (R2, R5, R19, R69). -/

-- One proof after the other: the memory limit of the check bounds the threads of Lean.
set_option Elab.async false

namespace Sys2Proof.Machine

/-! ### What leaves the counts -/

/-- The monotonic count and the timeline value stay (R2, R5). -/
def SameTime (s t : State) : Prop := t.tbu.mono = s.tbu.mono ∧ t.tbu.timeline = s.tbu.timeline

theorem SameTime.of_tbu {s t : State} (h : t.tbu = s.tbu) : SameTime s t := ⟨by rw [h], by rw [h]⟩

theorem SameTime.trans {s t u : State} (h : SameTime s t) (k : SameTime t u) : SameTime s u :=
  ⟨k.1.trans h.1, k.2.trans h.2⟩

theorem resetNotices_work (p : Port) (s : State) : AgendaWork s (resetNotices p s) := by
  obtain ⟨merged, -⟩ := mergedReset_frame p s
  rw [resetNotices_eq]
  exact merged.trans ((drain_drained p _).1.line.work.trans (releaseEnded_work p _))

/-- A port reset keeps the Timebase Unit (R184). -/
theorem portReset_tbu (p : Port) (s : State) : (portReset p s).tbu = s.tbu := by
  rw [portReset_eq, (resetLease_frame p _).1, (resetNotices_work p _).1, (detached_frame p s).1]

/-- Taking the due limits keeps the Timebase Unit, but for the slew, which a system reset at resume drops (R3, R195). -/
theorem takeDueLimits_tbu (s : State) :
    (takeDueLimits s).tbu = s.tbu ∨ (takeDueLimits s).tbu = { s.tbu with slew := 0 } := by
  have before : (limitsBeforeResume s).tbu = s.tbu := by simp [limitsBeforeResume, allPorts, allLines]
  rw [takeDueLimits_eq]
  generalize limitsBeforeResume s = t at before
  unfold resume
  split
  · split
    · refine .inr ?_
      rw [← before]
      simp [systemReset]
    · exact .inl (by simp [before])
  · exact .inl before

/-! ### The commands -/

theorem CommandChange.sameTime {p : Port} {x y : State} (change : CommandChange p x y) : SameTime x y := by
  cases change with
  | nothing => exact ⟨rfl, rfl⟩
  | leaseGranted d => exact ⟨rfl, rfl⟩
  | leaseReleased => exact ⟨rfl, rfl⟩
  | slewSet amount => exact ⟨rfl, rfl⟩
  | trimSet trim => exact ⟨rfl, rfl⟩
  | entryCreated payload c tm due h => exact .of_tbu (putSlot_work _ _ x).1
  | entryCancelled h e => exact .of_tbu (((endEntry_work _ _ x).trans (releaseIfDone_work _ _)).1)
  | noticesTaken max => exact .of_tbu (replaceQueue_work p _ x).1
  | noticesAcknowledged i =>
    refine .of_tbu ?_
    rw [acknowledgedThrough, (releaseEnded_same p _).1, (drain_drained p _).1.line.work.1, (replaceQueue_work p _ x).1]
  | flagsCleared set => exact .of_tbu (by rw [flagsCleared_eq])
  | attentionSet enables mode => exact ⟨rfl, rfl⟩
  | attentionSetDark enables mode => exact ⟨rfl, rfl⟩
  | profileReplaced payload t r =>
    refine .of_tbu ?_
    unfold profileSet
    dsimp only
    split <;> simp
  | mapReplaced m => exact ⟨rfl, rfl⟩
  | otherReset t => exact .of_tbu (portReset_tbu t x)

/-- The timeline value stays, or a step has moved it and the walk record holds both values (R19, R69). -/
def TimeStep (s t : State) : Prop :=
  t.tbu.mono = s.tbu.mono ∧ (t.tbu.timeline = s.tbu.timeline ∨
    ∃ w, walkOf t = some w ∧ w.oldValue = s.tbu.timeline ∧ w.newValue = t.tbu.timeline ∧
      w.delta = (t.tbu.timeline.toNat : Int) - (s.tbu.timeline.toNat : Int))

theorem SameTime.timeStep {s t : State} (h : SameTime s t) : TimeStep s t := ⟨h.1, .inl h.2⟩

theorem SameTime.then_step {s t u : State} (h : SameTime s t) (k : TimeStep t u) : TimeStep s u := by
  obtain ⟨mono, timeline⟩ := h
  rw [TimeStep, mono, timeline] at k
  exact k

theorem timeStep_takeStep (p : Port) (target : Time) (x : State) : TimeStep x (takeStep p target x) := by
  refine ⟨by simp, .inr ⟨stepWalk p target x, by simp [walkOf], rfl, ?_, ?_⟩⟩
  · simp [stepWalk]
  · simp [stepWalk]

/-- A command moves the timeline value by a step alone, which then realigns. -/
theorem CommandEnd.time {p : Port} {x t : State} (done : CommandEnd p x t) :
    SameTime x t ∨ (TimeStep x t ∧ isRunning t = false) := by
  cases done with
  | completed r out y change => exact .inl (change.sameTime.trans (.of_tbu (complete_frame p r out y).1))
  | reset => exact .inl (.of_tbu (portReset_tbu p x))
  | stepped target => exact .inr ⟨timeStep_takeStep p target x, by simp [isRunning, walkOf]⟩
  | held c => exact .inl (.of_tbu (by simp))

theorem CommandEnd.timeStep {p : Port} {x t : State} (done : CommandEnd p x t) : TimeStep x t := by
  rcases done.time with same | ⟨step, -⟩
  · exact same.timeStep
  · exact step

theorem ReleaseEnd.timeStep {p : Port} {bytes : List Byte} {s t : State} (released : ReleaseEnd p bytes s t) :
    TimeStep s t := by
  cases released with
  | notSelected => exact SameTime.timeStep ⟨rfl, rfl⟩
  | unjudged => exact SameTime.timeStep ⟨rfl, rfl⟩
  | frameError cause => exact (SameTime.of_tbu (by simp [selectReleased])).timeStep
  | command code seq payload t selected accepts done =>
    have taken : SameTime s (takeCommand p code seq payload (selectReleased p bytes s)) := ⟨rfl, rfl⟩
    exact taken.then_step done.timeStep

/-! ### The walk -/

theorem foldl_takeHeld_of_walk {x : State} (walk : isRunning x = false) (l : List Port) : l.foldl takeHeld x = x := by
  induction l with
  | nil => rfl
  | cons p l ih => rw [List.foldl_cons, takeHeld, if_neg (by simp [walk]), ih]

/-- Of the held commands at most one is a step that moves the timeline value, the last that is taken (R82, R83). -/
theorem timeStep_foldl_takeHeld (l : List Port) (x : State) : TimeStep x (l.foldl takeHeld x) := by
  induction l generalizing x with
  | nil => exact SameTime.timeStep ⟨rfl, rfl⟩
  | cons p l ih =>
    cases running : isRunning x with
    | false =>
      rw [foldl_takeHeld_of_walk running]
      exact SameTime.timeStep ⟨rfl, rfl⟩
    | true =>
      rw [List.foldl_cons]
      cases held : x.agu.held.get p with
      | none =>
        rw [takeHeld_empty held]
        exact ih x
      | some c =>
        rw [takeHeld_some running held]
        have taken : SameTime x (markHeld p false (setHeld p none x)) := .of_tbu (by simp)
        have runs : isRunning (markHeld p false (setHeld p none x)) = true :=
          (isRunning_congr (by simp)).trans running
        rcases (CommandEnd.of_agendaCommand (p := p) runs c).time with same | ⟨step, walk⟩
        · exact (taken.trans same).then_step (ih _)
        · rw [foldl_takeHeld_of_walk walk]
          exact taken.then_step step

theorem timeStep_endOfWalk (s : State) : TimeStep s (endOfWalk s) := by
  cases walk : walkOf s with
  | none =>
    simp only [endOfWalk, walk]
    exact SameTime.timeStep ⟨rfl, rfl⟩
  | some w =>
    by_cases finished : 96 ≤ w.position
    · rw [endOfWalk_eq walk finished]
      have same : SameTime s (takeTimelineValue (afterStep w s)) :=
        .of_tbu ((takeTimelineValue_work _).1.trans (afterStep_frame w s).1)
      exact same.then_step (timeStep_foldl_takeHeld allPorts _)
    · simp only [endOfWalk, walk, if_neg finished]
      exact SameTime.timeStep ⟨rfl, rfl⟩

/-! ### The tick -/

theorem le_ticked (x : Tbu) (adv : Nat) : x.timeline ≤ (ticked x adv).timeline := by
  have top := le_lastTime x.timeline
  have last : lastTime.toNat = 2 ^ 44 - 1 := rfl
  rw [BitVec.le_def, ticked, timeOf, BitVec.toNat_ofNat, Nat.mod_eq_of_lt (by omega)]
  omega

/-- An oscillator tick adds 1 to the monotonic count and takes the timeline not back (R2, R5). -/
theorem oscillatorTick_time (s : State) :
    (oscillatorTick s).tbu.mono = s.tbu.mono + 1 ∧ s.tbu.timeline ≤ (oscillatorTick s).tbu.timeline := by
  obtain ⟨adv, -, -, ticks⟩ := oscillatorTick_eq s
  have tbu : (oscillatorTick s).tbu = ticked s.tbu adv := by
    rw [ticks]
    split
    · simp
    · rw [(takeTimelineValue_work _).1, (tickFlagged_frame _ s).1]
  rw [tbu]
  exact ⟨rfl, le_ticked s.tbu adv⟩

theorem crystalTransition_time (s : State) (endsPeriod : Bool) :
    (crystalTransition endsPeriod s).tbu.mono =
        (if endsPeriod = true ∧ s.tbu.divider = 7 then s.tbu.mono + 1 else s.tbu.mono) ∧
      s.tbu.timeline ≤ (crystalTransition endsPeriod s).tbu.timeline := by
  unfold crystalTransition
  split
  · next ends =>
    split
    · next last =>
      rw [if_pos ⟨ends, last⟩]
      exact oscillatorTick_time _
    · next other =>
      rw [if_neg fun both => other both.2]
      exact ⟨rfl, BitVec.le_refl _⟩
  · next stays =>
    rw [if_neg fun both => stays both.1]
    exact ⟨rfl, BitVec.le_refl _⟩

/-! ### All rows -/

/-- The monotonic count after a row (R2). -/
def monoAfter (c : Instr) (s : State) : Mono :=
  match c with
  | .oscillatorTick => s.tbu.mono + 1
  | .crystalTransition endsPeriod => if endsPeriod = true ∧ s.tbu.divider = 7 then s.tbu.mono + 1 else s.tbu.mono
  | .powerOn _ => 0
  | _ => s.tbu.mono

/-- What a row does to the counts: a tick takes the timeline value forward, and every other row but power-on moves it by a
step alone. -/
def CountsMove (c : Instr) (s t : State) : Prop :=
  t.tbu.mono = monoAfter c s ∧
    ((∃ l, c = .powerOn l) ∨ s.tbu.timeline ≤ t.tbu.timeline ∨ TimeStep s t)

theorem CountsMove.of_step {c : Instr} {s t : State} (stays : monoAfter c s = s.tbu.mono) (step : TimeStep s t) :
    CountsMove c s t := ⟨step.1.trans stays.symm, .inr (.inr step)⟩

theorem CountsMove.of_tbu {c : Instr} {s t : State} (stays : monoAfter c s = s.tbu.mono) (same : t.tbu = s.tbu) :
    CountsMove c s t := .of_step stays (SameTime.of_tbu same).timeStep

theorem walkVisit_tbu (s : State) : (walkVisit s).tbu = s.tbu := by
  unfold walkVisit
  split
  · split
    · exact (setAgendaState_frame _ _).1.trans (visitSlot_work _ _ s).1
    · rfl
  · rfl

theorem backupLow_tbu (s : State) : (backupLow s).tbu = s.tbu := by
  unfold backupLow
  split <;> simp

theorem backupPresent_tbu (s : State) : (backupPresent s).tbu = s.tbu := by
  unfold backupPresent
  split <;> simp

theorem countsMove_row (c : Instr) (s : State) : CountsMove c s (row c s) := by
  cases c
  case oscillatorTick =>
    obtain ⟨mono, timeline⟩ := oscillatorTick_time s
    exact ⟨mono, .inr (.inl timeline)⟩
  case crystalTransition endsPeriod =>
    obtain ⟨mono, timeline⟩ := crystalTransition_time s endsPeriod
    exact ⟨mono, .inr (.inl timeline)⟩
  case powerOn l =>
    refine ⟨?_, .inl ⟨l, rfl⟩⟩
    rw [show row (.powerOn l) s = powerOn l s from rfl, powerOn]
    split
    · split <;> simp [systemReset, powerOnState, monoAfter]
    · rfl
  case crystalStop =>
    refine .of_step rfl (SameTime.timeStep ?_)
    rw [show row .crystalStop s = crystalStop s from rfl, crystalStop]
    split
    · exact ⟨by simp, by simp⟩
    · exact ⟨rfl, rfl⟩
  case leaseExpiry => exact .of_tbu rfl (leaseExpiry_frame s).1
  case attentionPulseEnd p => exact .of_tbu rfl (attnPulseEnd_frame p s).1
  case strobePulseEnd l => exact .of_tbu rfl (strobePulseEnd_frame l s).1
  case frameTimeout p => exact .of_tbu rfl (frameTimeout_frame p s).1
  case walkVisit => exact .of_tbu rfl (walkVisit_tbu s)
  case endOfWalk => exact .of_step rfl (timeStep_endOfWalk s)
  case selectAssertion x =>
    refine .of_tbu rfl ?_
    rw [show row (.selectAssertion x) s = selectAssertion x.port x.bytes s from rfl, selectAssertion]
    split <;> rfl
  case holdoverEntry =>
    refine .of_tbu rfl ?_
    rw [show row .holdoverEntry s = holdoverEntry s from rfl, holdoverEntry]
    split
    · simp [setSupply]
    · rfl
  case settleStart =>
    refine .of_tbu rfl ?_
    rw [show row .settleStart s = settleStart s from rfl, settleStart]
    split <;> rfl
  case settleAbort =>
    refine .of_tbu rfl ?_
    rw [show row .settleAbort s = settleAbort s from rfl, settleAbort]
    split <;> rfl
  case resume =>
    refine .of_step rfl (SameTime.timeStep ?_)
    rw [show row .resume s = resume s from rfl, resume]
    split
    · split
      · exact ⟨by simp [systemReset], by simp [systemReset]⟩
      · exact ⟨by simp, by simp⟩
    · exact ⟨rfl, rfl⟩
  case backupLow => exact .of_tbu rfl (backupLow_tbu s)
  case backupPresent => exact .of_tbu rfl (backupPresent_tbu s)
  case sysrstnAssertion =>
    refine .of_step rfl (SameTime.timeStep ?_)
    rw [show row .sysrstnAssertion s = sysrstnAssertion s from rfl, sysrstnAssertion]
    split
    · exact ⟨rfl, rfl⟩
    · dsimp only
      split <;> exact ⟨rfl, rfl⟩
  case sysrstnRelease =>
    refine .of_tbu rfl ?_
    rw [show row .sysrstnRelease s = sysrstnRelease s from rfl, sysrstnRelease]
    split
    · dsimp only
      split <;> simp
    · rfl
  case profileLoadComplete x =>
    refine .of_tbu rfl ?_
    rw [show row (.profileLoadComplete x) s = profileLoadComplete x s from rfl, profileLoadComplete]
    dsimp only
    split
    · split
      · rfl
      · rfl
      · split <;> rfl
    · rfl
  all_goals exact .of_step rfl (releaseEnd_releaseSelect _ _ _ s).timeStep

/-- Settles O9: the due limits leave the counts, and each row moves them as `countsMove_row` says. -/
theorem countsMoveOnlyByTheirEvents : Obligations.CountsMoveOnlyByTheirEvents := by
  intro c s t runs
  rw [exec_eq_row] at runs
  obtain rfl := Host.Outcome.next.inj runs
  generalize before : (if takesNoDueLimit c = true then s else takeDueLimits s) = x
  have same : x.tbu.mono = s.tbu.mono ∧ x.tbu.timeline = s.tbu.timeline ∧ x.tbu.divider = s.tbu.divider := by
    rw [← before]
    split
    · exact ⟨rfl, rfl, rfl⟩
    · rcases takeDueLimits_tbu s with tbu | tbu <;> exact ⟨by rw [tbu], by rw [tbu], by rw [tbu]⟩
  obtain ⟨mono, timeline, divider⟩ := same
  obtain ⟨count, moves⟩ := countsMove_row c x
  refine ⟨?_, fun back => ?_⟩
  · rw [count]
    cases c
    case crystalTransition endsPeriod => cases endsPeriod <;> simp [monoAfter, mono, divider]
    all_goals simp [monoAfter, mono]
  · rcases moves with power | later | ⟨-, same | ⟨w, walk, old, new, delta⟩⟩
    · exact .inl power
    · rw [timeline] at later
      exact absurd back (BitVec.not_lt.mpr later)
    · rw [same, timeline] at back
      exact absurd back (BitVec.lt_irrefl _)
    · refine .inr ⟨w, walk, old.trans timeline, new, ?_⟩
      rw [BitVec.lt_def, ← timeline] at back
      omega

end Sys2Proof.Machine
end

section
/-! PROOFS. A drain with the release after it makes a part tidy again where the records of one port alone may be unfinished
(R48, R88, R96, R97). -/

-- One proof after the other: the memory limit of the check bounds the threads of Lean.
set_option Elab.async false

namespace Sys2Proof.Machine

/-! ### Attention lines and the agenda -/

theorem linesFollow_replaceQueue {s : State} (ok : LinesFollow s) (p : Port) (q : NoticeQueue) :
    LinesFollow (replaceQueue p q s) := by
  obtain ⟨tbu, -, -, -, -, -, -, spm, -⟩ := replaceQueue_frame p q s
  have mono : (replaceQueue p q s).tbu.mono = s.tbu.mono := congrArg Tbu.mono tbu
  intro r
  by_cases port : r = p
  · subst port
    exact LineInOrder.of_answers (ok r) (lineAnswers_replaceQueue r q s) (replaceQueue_attn r r q s).2.2.2 spm mono
  · have attn : (replaceQueue p q s).attn.get r = s.attn.get r := by
      rw [replaceQueue, followAttention_other _ _ _ _ port]
      rfl
    exact LineInOrder.congr (ok r) attn
      (attnCondition_congr (by rw [attn]) (by rw [attn]) (by simp [noticeSource, port])) spm mono

theorem agendaInOrder_freeWhere {s : State} (ok : AgendaInOrder s) (c : Handle → Option Entry → Bool) :
    AgendaInOrder (freeWhere c s) :=
  foldl_keeps (P := AgendaInOrder) _ allHandles s (fun t h ok => by
    unfold freeIf
    split
    · exact ok.putSlot h none
    · exact ok) ok

/-! ### A part that is tidy but for one port -/

/-- A tidy part but for the pending parts and the references of the entries of one port, which a drain and the release
after it restore (R48, R96). -/
structure TidyBut (p : Port) (s : State) : Prop where
  records : Records s
  room : ∀ r, r ≠ p → RoomKept r s
  references : ∀ h e, slot s h = some e → e.owner ≠ p → isEnded e = true → hasReference s h e = true
  agenda : AgendaInOrder s
  lines : LinesFollow s
  strobes : StrobesInOrder s

/-! ### The drain keeps the records (R96) -/

namespace EntryOk
variable {own : List Notice} {e : Entry}

theorem withoutSummary (ok : EntryOk own e) : EntryOk own { e with summary := none } where
  period := ok.period
  missed := ok.missed
  summary := fun r none => by simp at none
  terminal := ok.terminal
  silent := fun silent => ⟨(ok.silent silent).1, rfl, (ok.silent silent).2.2⟩
  waits := fun some => absurd rfl some
  last := ok.last

theorem withoutTerminal (ok : EntryOk own e) : EntryOk own { e with terminal := none } where
  period := ok.period
  missed := ok.missed
  summary := ok.summary
  terminal := fun r none => by simp at none
  silent := fun silent => ⟨(ok.silent silent).1, (ok.silent silent).2.1, rfl⟩
  waits := ok.waits
  last := ok.last

end EntryOk

section Drain
variable {p : Port} {h : Handle} {s : State} {e : Entry}

theorem entryWork_movePart (at_h : slot s h = some e) (f : EntryParts → EntryParts) (r : Report) :
    EntryWork p h true (appended h e.tag r (s.queues.get p)) (some (e.withParts (f e.parts))) s
      (updateParts h f (appendNotice p h e.tag r s)) where
  line := (appendNotice_line p h e.tag r s).trans (updateParts_line p h f _)
  queues := by simp [appended]
  strobes := by simp
  others := fun g other => by simp [other]
  here := by simp [at_h]

/-- A part of an entry that becomes a notice keeps the records (R96). -/
theorem records_movePart (records : Records s) (at_h : slot s h = some e) (own : e.owner = p)
    (room : hasRoom s p = true) (f : EntryParts → EntryParts) {r : Report}
    (less : EntryOk (noticesOf h (s.queues.get p)) (e.withParts (f e.parts))) (notify : e.notify = true)
    (fired : r.reason = .fired → (e.withParts (f e.parts)).summary = none ∧ (noticesOf h (s.queues.get p)).any isOpen = false)
    (last : r.reason ≠ .fired → isEnded (e.withParts (f e.parts)) = true ∧ r.fires = 0) :
    Records (updateParts h f (appendNotice p h e.tag r s)) := by
  have step : QueueStep h (s.queues.get p) (appended h e.tag r (s.queues.get p)) :=
    queueStep_appended ((hasRoom_iff_lt s p).mp room) fun is => (fired is).2
  refine records.of_work (entryWork_movePart at_h f r) at_h own step (.inr ⟨_, rfl, own, ?_⟩)
  exact less.appended notify (fun is => (fired is).1) last

theorem notify_of_part (ok : EntryOk (noticesOf h (s.queues.get p)) e) (some : e.summary ≠ none ∨ e.terminal ≠ none) :
    e.notify = true := by
  by_contra silent
  obtain ⟨-, summary, terminal⟩ := ok.silent (by simpa using silent)
  exact some.elim (· summary) (· terminal)

theorem records_drainSummary (records : Records s) (owned : ownedBy s p h = true) : Records (drainSummary p h s) := by
  obtain ⟨e, at_h, own⟩ := (ownedBy_iff s p h).mp owned
  have ok : EntryOk (noticesOf h (s.queues.get p)) e := own ▸ records.entries h e at_h
  simp only [drainSummary, at_h]
  cases summary : e.summary with
  | none => exact records
  | some r =>
    dsimp only
    split
    · next room =>
      have is := ok.summary r summary
      exact records_movePart records at_h own room _ ok.withoutSummary (notify_of_part ok (.inl (by simp [summary])))
        (fun _ => ⟨rfl, ok.waits (by simp [summary])⟩) fun other => absurd is other
    · exact records

theorem records_drainTerminal (records : Records s) (owned : ownedBy s p h = true) : Records (drainTerminal p h s) := by
  obtain ⟨e, at_h, own⟩ := (ownedBy_iff s p h).mp owned
  have ok : EntryOk (noticesOf h (s.queues.get p)) e := own ▸ records.entries h e at_h
  simp only [drainTerminal, at_h]
  cases summary : e.summary with
  | some r => exact records
  | none =>
    cases terminal : e.terminal with
    | none => exact records
    | some r =>
      dsimp only
      split
      · next room =>
        obtain ⟨reason, fires, ended⟩ := ok.terminal r terminal
        exact records_movePart records at_h own room _ ok.withoutTerminal (notify_of_part ok (.inr (by simp [terminal])))
          (fun is => absurd is reason) fun _ => ⟨ended, fires⟩
      · exact records

theorem ownedBy_drainSummary (owned : ownedBy s p h = true) : ownedBy (drainSummary p h s) p h = true := by
  obtain ⟨e, at_h, own⟩ := (ownedBy_iff s p h).mp owned
  obtain ⟨drained, -⟩ := drainSummary_drained at_h own
  obtain ⟨e', after, fixed, -⟩ := drained.entries h e at_h
  exact (ownedBy_iff _ p h).mpr ⟨e', after, fixed.1.trans own⟩

theorem records_drain (records : Records s) : Records (drain p s) :=
  foldl_keeps (P := Records) _ allHandles s (fun t h ok => by
    split
    · next owned => exact records_drainTerminal (records_drainSummary ok owned) (ownedBy_drainSummary owned)
    · exact ok) records

end Drain

theorem Drained.slot_inv {p : Port} {m : List (Handle × Half × Report)} {s t : State} (drained : Drained p m s t) {h : Handle}
    {x : Entry} (after : slot t h = some x) :
    ∃ e, slot s h = some e ∧ sameFixedFields x e ∧ x.status = e.status ∧ (e.owner ≠ p → x = e) := by
  cases before : slot s h with
  | none => simp [drained.free h before] at after
  | some e =>
    obtain ⟨x', after', fixed, status, -, same⟩ := drained.entries h e before
    cases after.symm.trans after'
    exact ⟨e, rfl, fixed, status, same⟩

theorem Drained.dueAt {p : Port} {m : List (Handle × Half × Report)} {s t : State} (drained : Drained p m s t) (h : Handle) :
    dueAt t h = dueAt s h := by
  unfold Machine.dueAt
  cases before : slot s h with
  | none => rw [drained.free h before]
  | some e =>
    obtain ⟨x, after, -, status, -⟩ := drained.entries h e before
    rw [after, Option.bind_some, Option.bind_some, dueOf, dueOf, status]

/-- A drain keeps a part tidy but for its port, and leaves none of the port's parts waiting while there is room (R96). -/
theorem TidyBut.drain {p : Port} {s : State} (ok : TidyBut p s) : TidyBut p (drain p s) ∧ RoomKept p (drain p s) := by
  have drained := (drain_drained p s).1
  obtain ⟨tbu, -, pru, -, spm, -⟩ := drained.line.work
  refine ⟨⟨records_drain ok.records, fun r other room h x at_h own => ?_, fun h x at_h other ended => ?_,
    ok.agenda.congr drained.agenda drained.dueAt, linesFollow_of_lineWork ok.lines drained.line drained.queues,
    strobesInOrder_congr ok.strobes drained.strobes (by rw [pru]) spm (by rw [tbu])⟩, fun room h x at_h own => ?_⟩
  · obtain ⟨e, before, fixed, -, same⟩ := drained.slot_inv at_h
    have owner : e.owner = r := fixed.1.symm.trans own
    rw [same (by rw [owner]; exact other)]
    rw [hasRoom, drained.queues r other] at room
    exact ok.room r other room h e before owner
  · obtain ⟨e, before, fixed, -, same⟩ := drained.slot_inv at_h
    have owner : e.owner ≠ p := fixed.1 ▸ other
    obtain rfl := same owner
    have reference := ok.references h x before other ended
    rw [hasReference_iff] at reference ⊢
    rwa [drained.queues _ other]
  · exact no_parts_of_pendingParts (no_parts_of_drain_room room) at_h own

/-! ### The release (R48) -/

theorem slot_releaseEnded_inv {p : Port} {s : State} {h : Handle} {e : Entry} (after : slot (releaseEnded p s) h = some e) :
    slot s h = some e ∧ isReleasable p s h (some e) = false := by
  rw [slot_releaseEnded] at after
  split at after
  · simp at after
  · next kept =>
    rw [after] at kept
    exact ⟨after, by simpa using kept⟩

/-- The release restores the references of the port's entries (R48). -/
theorem TidyBut.releaseEnded {p : Port} {s : State} (ok : TidyBut p s) (room : RoomKept p s) : Tidy (releaseEnded p s) := by
  obtain ⟨tbu, -, queues, attn, strobes, pru, -, spm, -⟩ := releaseEnded_same p s
  have before : ∀ {h e}, slot (Machine.releaseEnded p s) h = some e → slot s h = some e := fun at_h =>
    (slot_releaseEnded_inv at_h).1
  have records : Records (Machine.releaseEnded p s) := by
    refine ⟨fun h e at_h => ?_, fun r => ?_, fun r n hn => ?_⟩
    · rw [queues]
      exact ok.records.entries h e (before at_h)
    · rw [queues]
      exact ok.records.queues r
    · rw [queues] at hn
      obtain ⟨e, at_n, own⟩ := ok.records.owned r n hn
      refine ⟨e, ?_, own⟩
      have reference : hasReference s n.handle e = true := by
        rw [hasReference_iff, own]
        exact .inl (List.ne_nil_of_mem (mem_noticesOf.mpr ⟨hn, rfl⟩))
      rw [slot_releaseEnded, if_neg, at_n]
      simp [isReleasable, at_n, reference]
  refine ⟨records, fun r free h e at_h own => ?_, fun h e at_h ended => ?_, ?_, ?_, ?_⟩
  · rw [hasRoom, queues] at free
    by_cases same : r = p
    · subst same
      exact room free h e (before at_h) own
    · exact ok.room r same free h e (before at_h) own
  · obtain ⟨at_h, kept⟩ := slot_releaseEnded_inv at_h
    rw [hasReference_congr queues]
    by_cases own : e.owner = p
    · simpa [isReleasable, own, ended] using kept
    · exact ok.references h e at_h own ended
  · rw [releaseEnded_eq_freeWhere]
    exact agendaInOrder_freeWhere ok.agenda _
  · exact linesFollow_congr ok.lines attn queues spm (by rw [tbu])
  · exact strobesInOrder_congr ok.strobes strobes (by rw [pru]) spm (by rw [tbu])

/-- A tidy part is tidy but for any port. -/
theorem Tidy.but {s : State} (tidy : Tidy s) (p : Port) : TidyBut p s :=
  ⟨tidy.records, fun r _ => tidy.room r, fun h e at_h _ => tidy.references h e at_h, tidy.agenda, tidy.lines, tidy.strobes⟩

/-! ### ACK_NOTICES (R100) -/

/-- A queue stays in order when notices leave its front (R88, R89, R100). -/
theorem QueueInOrder.drop {q : NoticeQueue} (ok : QueueInOrder q) (k : Nat) :
    QueueInOrder { q with notices := q.notices.drop k } := by
  obtain ⟨length, delivered, opens, seq⟩ := ok
  have sub := List.drop_sublist k q.notices
  refine ⟨sub.length_le.trans length, delivered.sublist sub, fun h => (sub.countP_le).trans (opens h), fun i hi => ?_⟩
  rw [List.length_drop] at hi
  have before := seq (k + i) (by omega)
  rw [List.getElem_drop, List.length_drop, ← before]
  congr 2
  omega

/-- A change of a queue that leaves other slots alone and takes notices away, or marks them delivered, keeps the records. -/
theorem Records.replaceQueue {p : Port} {s : State} (records : Records s) {q : NoticeQueue} (order : QueueInOrder q)
    (from_before : ∀ n ∈ q.notices, ∃ m ∈ (s.queues.get p).notices, m.handle = n.handle ∧ m.report = n.report ∧
      (n.delivered = false → m.delivered = false)) : Records (replaceQueue p q s) := by
  obtain ⟨-, -, agu, queues, -⟩ := replaceQueue_frame p q s
  have slots : ∀ h, slot (Machine.replaceQueue p q s) h = slot s h := fun h => slot_congr (by rw [agu]) h
  refine ⟨fun h e at_h => ?_, fun r => ?_, fun r n hn => ?_⟩
  · rw [slots] at at_h
    rw [queues, PerPort.get_set]
    split
    · next own =>
      refine (records.entries h e at_h).weaken fun n hn => ?_
      obtain ⟨inside, same⟩ := mem_noticesOf.mp hn
      obtain ⟨m, hm, handle, report, delivered⟩ := from_before n inside
      exact ⟨m, mem_noticesOf.mpr ⟨by rwa [own], handle.trans same⟩, report, delivered⟩
    · exact records.entries h e at_h
  · rw [queues, PerPort.get_set]
    split
    · exact order
    · exact records.queues r
  · rw [slots]
    rw [queues, PerPort.get_set] at hn
    split at hn
    · next same =>
      obtain ⟨m, hm, handle, -⟩ := from_before n hn
      rw [← handle, same]
      exact records.owned p m hm
    · exact records.owned r n hn

/-- A port's queue is replaced: what the other ports have stays. -/
theorem TidyBut.replaceQueue {p : Port} {s : State} (ok : TidyBut p s) {q : NoticeQueue}
    (records : Records (replaceQueue p q s)) : TidyBut p (replaceQueue p q s) := by
  obtain ⟨tbu, -, agu, queues, strobes, pru, -, spm, -⟩ := replaceQueue_frame p q s
  have slots : ∀ h, slot (Machine.replaceQueue p q s) h = slot s h := fun h => slot_congr (by rw [agu]) h
  refine ⟨records, fun r other => ?_, fun h e at_h other ended => ?_,
    ok.agenda.congr (by rw [agu]) fun h => by rw [dueAt, dueAt, slots], linesFollow_replaceQueue ok.lines p q,
    strobesInOrder_congr ok.strobes strobes (by rw [pru]) spm (by rw [tbu])⟩
  · exact (ok.room r other).congr slots (by rw [queues, PerPort.get_set_ne _ _ other])
  · rw [slots] at at_h
    have reference := ok.references h e at_h other ended
    rw [hasReference_iff] at reference ⊢
    rwa [queues, PerPort.get_set_ne _ _ other]

theorem tidy_acknowledgedThrough {p : Port} {s : State} (tidy : Tidy s) (i : Nat) : Tidy (acknowledgedThrough p i s) := by
  have records := tidy.records.replaceQueue (p := p) ((tidy.records.queues p).drop (i + 1)) fun n hn =>
    ⟨n, List.mem_of_mem_drop hn, rfl, rfl, id⟩
  obtain ⟨ok, room⟩ := ((tidy.but p).replaceQueue records).drain
  exact ok.releaseEnded room

end Sys2Proof.Machine
end

section
/-! PROOFS. The changes that commands make keep a tidy part tidy (R28, R48, R59, R88, R96, R135 to R138, R141). -/

-- One proof after the other: the memory limit of the check bounds the threads of Lean.
set_option Elab.async false

namespace Sys2Proof.Machine

/-! ### CREATE_ENTRY (R44, R45) -/

theorem quantityField_eq_some {payload : List Byte} {offset lo : Nat} {x : BitVec 40}
    (field : quantityField payload offset lo = some x) (small : numField payload offset 5 < 2 ^ 40) : lo ≤ x.toNat := by
  simp only [quantityField] at field
  split at field
  · cases field
    rw [BitVec.toNat_ofNat, Nat.mod_eq_of_lt small]
    assumption
  · simp at field

theorem numField_lt (payload : List Byte) (offset n : Nat) : numField payload offset n < 256 ^ n :=
  (ofBytes_lt _).trans_le (Nat.pow_le_pow_right (by norm_num) (List.length_take_le _ _))

/-- The period of timing fields that pass is long enough (R32, R34). -/
theorem periodOk_of_timingFields {k : Kind} {r : Reference} {payload : List Byte} {tm : Timing}
    (fields : timingFields k r payload = some tm) : PeriodOk tm.schedule := by
  have small : numField payload 20 5 < 2 ^ 40 := numField_lt payload 20 5
  unfold timingFields at fields
  split at fields
  · obtain ⟨due, -, rfl⟩ := Option.map_eq_some_iff.mp fields
    exact ⟨fun _ _ h => by simp [Timing.schedule] at h, fun _ h => by simp [Timing.schedule] at h⟩
  · obtain ⟨delay, -, rfl⟩ := Option.map_eq_some_iff.mp fields
    exact ⟨fun _ _ h => by simp [Timing.schedule] at h, fun _ h => by simp [Timing.schedule] at h⟩
  · obtain ⟨anchor, -, rest⟩ := Option.bind_eq_some_iff.mp fields
    obtain ⟨per, period, rfl⟩ := Option.map_eq_some_iff.mp rest
    refine ⟨fun _ _ h => ?_, fun _ h => by simp [Timing.schedule] at h⟩
    cases h
    exact quantityField_eq_some period small
  · obtain ⟨delay, -, rest⟩ := Option.bind_eq_some_iff.mp fields
    obtain ⟨per, period, rfl⟩ := Option.map_eq_some_iff.mp rest
    refine ⟨fun _ _ h => by simp [Timing.schedule] at h, fun _ h => ?_⟩
    cases h
    exact quantityField_eq_some period small
  · obtain ⟨pat, -, rfl⟩ := Option.map_eq_some_iff.mp fields
    exact ⟨fun _ _ h => by simp [Timing.schedule] at h, fun _ h => by simp [Timing.schedule] at h⟩

/-- The first due of timing fields with a due of their own choice lies after now (R31 to R34). -/
theorem lt_firstDue {k : Kind} {r : Reference} {payload : List Byte} {tm : Timing} {now due : Time}
    (fields : timingFields k r payload = some tm) (own : ∀ d, tm ≠ .oneShotWall d) (first : firstDue now tm = some due) :
    now < due := by
  have small : numField payload 15 5 < 2 ^ 40 := numField_lt payload 15 5
  have delayed : ∀ {delay : BitVec 40}, quantityField payload 15 1 = some delay →
      timeInRange (now.toNat + delay.toNat) = some due → now < due := fun field inside => by
    have positive := quantityField_eq_some field small
    rw [timeInRange_iff] at inside
    rw [BitVec.lt_def]
    omega
  have period := periodOk_of_timingFields fields
  unfold timingFields at fields
  split at fields
  · obtain ⟨d, -, rfl⟩ := Option.map_eq_some_iff.mp fields
    exact absurd rfl (own d)
  · obtain ⟨delay, field, rfl⟩ := Option.map_eq_some_iff.mp fields
    exact delayed field first
  · obtain ⟨anchor, -, rest⟩ := Option.bind_eq_some_iff.mp fields
    obtain ⟨per, -, rfl⟩ := Option.map_eq_some_iff.mp rest
    have long := period.1 per anchor rfl
    obtain ⟨later, -⟩ := gridAfter_spec anchor.toNat now.toNat (period := per.toNat) (by omega)
    have at_due := timeInRange_iff.mp first
    rw [BitVec.lt_def]
    omega
  · obtain ⟨delay, field, rest⟩ := Option.bind_eq_some_iff.mp fields
    obtain ⟨per, -, rfl⟩ := Option.map_eq_some_iff.mp rest
    exact delayed field first
  · obtain ⟨pat, -, rfl⟩ := Option.map_eq_some_iff.mp fields
    exact ((nextMatch_spec pat now).1 due first).1

/-- What passes the checks of R44: timing fields in range, and a first due after now. -/
theorem judgeCreate_ok {now due : Time} {payload : List Byte} {c : CreateCodes} {tm : Timing}
    (judged : judgeCreate now payload = .ok (c, tm, due)) : PeriodOk tm.schedule ∧ now < due := by
  unfold judgeCreate at judged
  split at judged
  · simp at judged
  · split at judged
    · simp at judged
    · split at judged
      · simp at judged
      · next fields =>
        split at judged
        · split at judged
          · simp at judged
          · next later =>
            cases judged
            exact ⟨periodOk_of_timingFields fields, BitVec.not_le.mp later⟩
        · split at judged
          · simp at judged
          · split at judged
            · simp at judged
            · next first =>
              cases judged
              exact ⟨periodOk_of_timingFields fields, lt_firstDue fields (by simp) first⟩
        · next other _ =>
          split at judged
          · simp at judged
          · next first =>
            cases judged
            exact ⟨periodOk_of_timingFields fields, lt_firstDue fields other first⟩

theorem entryOk_newEntry (p : Port) (tag : Half) (c : CreateCodes) {tm : Timing} (due : Time) (period : PeriodOk tm.schedule) :
    EntryOk [] (newEntry p tag c tm due) where
  period := period
  missed := fun _ => rfl
  summary := fun r none => by simp [newEntry] at none
  terminal := fun r none => by simp [newEntry] at none
  silent := fun _ => ⟨rfl, rfl, rfl⟩
  waits := fun _ => rfl
  last := fun n none => by simp at none

/-- A new ARMED entry in a FREE slot keeps a part tidy (R45). -/
theorem tidy_newEntry {s : State} (tidy : Tidy s) {h : Handle} (free : slot s h = none) (p : Port) (tag : Half)
    (c : CreateCodes) {tm : Timing} (due : Time) (period : PeriodOk tm.schedule) :
    Tidy (putSlot h (some (newEntry p tag c tm due)) s) := by
  obtain ⟨tbu, -, queues, attn, strobes, pru, -, spm, -⟩ := putSlot_same h (some (newEntry p tag c tm due)) s
  have unknown : ∀ r, noticesOf h (s.queues.get r) = [] := fun r => (noticesOf_eq_nil_iff h _).mpr fun n hn same => by
    obtain ⟨e, at_n, -⟩ := tidy.records.owned r n hn
    simp [same, free] at at_n
  have slots : ∀ {g e}, slot (putSlot h (some (newEntry p tag c tm due)) s) g = some e →
      (g = h ∧ e = newEntry p tag c tm due) ∨ slot s g = some e := fun {g e} at_g => by
    rw [slot_putSlot] at at_g
    split at at_g
    · next same => exact .inl ⟨same, (Option.some.inj at_g).symm⟩
    · exact .inr at_g
  refine ⟨⟨fun g e at_g => ?_, fun r => ?_, fun r n hn => ?_⟩, fun r room g e at_g own => ?_, fun g e at_g ended => ?_,
    tidy.agenda.putSlot h _, linesFollow_congr tidy.lines attn queues spm (by rw [tbu]),
    strobesInOrder_congr tidy.strobes strobes (by rw [pru]) spm (by rw [tbu])⟩
  · rw [queues]
    rcases slots at_g with ⟨rfl, rfl⟩ | before
    · rw [unknown]
      exact entryOk_newEntry p tag c due period
    · exact tidy.records.entries g e before
  · rw [queues]
    exact tidy.records.queues r
  · rw [queues] at hn
    obtain ⟨e, at_n, own⟩ := tidy.records.owned r n hn
    have other : n.handle ≠ h := fun same => by simp [same, free] at at_n
    exact ⟨e, by rw [slot_putSlot, if_neg other, at_n], own⟩
  · rw [hasRoom, queues] at room
    rcases slots at_g with ⟨-, rfl⟩ | before
    · exact ⟨rfl, rfl⟩
    · exact tidy.room r room g e before own
  · rcases slots at_g with ⟨-, rfl⟩ | before
    · simp [isEnded, dueOf, newEntry] at ended
    · rw [hasReference_congr queues]
      exact tidy.references g e before ended

/-! ### CANCEL_ENTRY (R51, R52) -/

theorem tidyWork_cancelled {s : State} {h : Handle} {e : Entry} (at_h : slot s h = some e) (armed : isEnded e = false) :
    TidyWork s (cancelled h s) := by
  have ends : EntryWork e.owner h false _ _ s (endEntry h .cancelled s) :=
    entryWork_setStatus e.owner at_h (.ended .cancelled)
  cases reference : hasReference s h e with
  | true =>
    rw [cancelled_kept at_h reference]
    refine .of_entryWork ends at_h (fun ok => agendaInOrder_setStatus ok _) (.refl h _) fun tidy =>
      .inr ⟨_, rfl, (tidy.here at_h).withStatus armed fun _ => ?_⟩
    exact (hasReference_iff s h e).mp reference
  | false =>
    rw [cancelled_alone at_h reference]
    have alone := (hasReference_eq_false_iff s h e).mp reference
    have freed := entryWork_putSlot e.owner h none (endEntry h .cancelled s)
    rw [ends.queue] at freed
    exact .of_entryWork (ends.trans freed) at_h (fun ok => (agendaInOrder_setStatus ok _).putSlot h none) (.refl h _)
      fun _ => .inl ⟨rfl, (noticesOf_eq_nil_iff h _).mpr alone.1⟩

/-! ### TAKE_NOTICES (R98) -/

/-- TAKE_NOTICES changes the delivery marks alone (R98). -/
theorem map_afterTaken {α : Type} (f : Notice → α) (keeps : ∀ n : Notice, f { n with delivered := true } = f n) (max : Nat)
    (l : List Notice) : (afterTaken max l).map f = l.map f := by
  rw [afterTaken, List.map_append, List.map_map, show f ∘ (fun n : Notice => { n with delivered := true }) = f from
    funext keeps, ← List.map_append, List.take_append_drop]

theorem mem_afterTaken {max : Nat} {l : List Notice} {n : Notice} (inside : n ∈ afterTaken max l) :
    ∃ m ∈ l, m.handle = n.handle ∧ m.report = n.report ∧ (n.delivered = false → m.delivered = false) := by
  rcases List.mem_append.mp inside with taken | left
  · obtain ⟨m, hm, rfl⟩ := List.mem_map.mp taken
    exact ⟨m, List.mem_of_mem_take hm, rfl, rfl, by simp⟩
  · exact ⟨n, List.mem_of_mem_drop left, rfl, rfl, id⟩

theorem QueueInOrder.afterTaken {q : NoticeQueue} (ok : QueueInOrder q) (max : Nat) :
    QueueInOrder { q with notices := afterTaken max q.notices } := by
  obtain ⟨length, delivered, opens, seq⟩ := ok
  have seqs := map_afterTaken (·.seq) (fun _ => rfl) max q.notices
  refine ⟨(afterTaken_length max _).le.trans length, ?_, fun h => ?_, fun i hi => ?_⟩
  · refine List.pairwise_append.mpr ⟨?_, delivered.sublist (List.drop_sublist max _), fun n hn m _ _ => ?_⟩
    · exact List.pairwise_map.mpr (List.pairwise_of_forall fun _ _ _ => rfl)
    · obtain ⟨k, -, rfl⟩ := List.mem_map.mp hn
      rfl
  · have closed : ((q.notices.take max).map fun n => { n with delivered := true }).countP (isOpenFor h) = 0 :=
      List.countP_eq_zero.mpr fun n hn => by
        obtain ⟨m, -, rfl⟩ := List.mem_map.mp hn
        simp [isOpenFor]
    rw [Machine.afterTaken, List.countP_append, closed, Nat.zero_add]
    exact (List.drop_sublist max _).countP_le.trans (opens h)
  · have inside : i < q.notices.length := afterTaken_length max q.notices ▸ hi
    have same : (Machine.afterTaken max q.notices)[i].seq = q.notices[i].seq := by
      have at_i := congrArg (·[i]?) seqs
      simpa [List.getElem?_eq_getElem, hi, inside] using at_i
    simp only [same, afterTaken_length]
    exact seq i inside

/-- A tidy part that is tidy but for one port is tidy where that port's own entries have their references and wait. -/
theorem TidyBut.tidy {p : Port} {s : State} (ok : TidyBut p s) (room : RoomKept p s)
    (references : ∀ h e, slot s h = some e → e.owner = p → isEnded e = true → hasReference s h e = true) : Tidy s where
  records := ok.records
  room := fun r => by
    by_cases same : r = p
    · exact same ▸ room
    · exact ok.room r same
  references := fun h e at_h ended => by
    by_cases own : e.owner = p
    · exact references h e at_h own ended
    · exact ok.references h e at_h own ended
  agenda := ok.agenda
  lines := ok.lines
  strobes := ok.strobes

theorem tidy_noticesTaken {p : Port} {s : State} (tidy : Tidy s) (max : Nat) :
    Tidy (replaceQueue p { s.queues.get p with notices := afterTaken max (s.queues.get p).notices } s) := by
  have records := tidy.records.replaceQueue (p := p) ((tidy.records.queues p).afterTaken max) fun n hn => mem_afterTaken hn
  obtain ⟨-, -, -, queues, -⟩ :=
    replaceQueue_frame p { s.queues.get p with notices := afterTaken max (s.queues.get p).notices } s
  have slots := fun h => slot_replaceQueue p { s.queues.get p with notices := afterTaken max (s.queues.get p).notices } s h
  refine ((tidy.but p).replaceQueue records).tidy (fun room h e at_h own => ?_) fun h e at_h own ended => ?_
  · rw [slots] at at_h
    rw [hasRoom, queues, PerPort.get_set_self, afterTaken_length] at room
    exact tidy.room p room h e at_h own
  · rw [slots] at at_h
    have reference := tidy.references h e at_h ended
    rw [hasReference_iff, own] at reference ⊢
    refine reference.imp_left fun some empty => some ?_
    rw [queues, PerPort.get_set_self, noticesOf_eq_nil_iff] at empty
    refine (noticesOf_eq_nil_iff h _).mpr fun n hn => ?_
    have handles := map_afterTaken (·.handle) (fun _ => rfl) max (s.queues.get p).notices
    obtain ⟨m, hm, same⟩ := List.mem_map.mp (handles ▸ List.mem_map_of_mem hn)
    exact same ▸ empty m hm

/-! ### The attention commands (R131, R134) -/

theorem LineInOrder.of_level {p : Port} {s : State} (mode : (s.attn.get p).mode = .level)
    (line : (s.attn.get p).line = .driven ↔ s.spm.supply = .main ∧ attnCondition s p = true)
    (pulse : (s.attn.get p).pulseEnd = none) : LineInOrder p s := by
  unfold LineInOrder
  rw [mode, pulse]
  exact ⟨line, fun e running => by simp at running⟩

/-- A change of one port's ASU state alone keeps the other lines in order. -/
theorem linesFollow_setAttn {p : Port} {s : State} (ok : LinesFollow s) {a : Attn}
    (line : LineInOrder p { s with attn := s.attn.set p a }) : LinesFollow { s with attn := s.attn.set p a } := fun r => by
  by_cases port : r = p
  · exact port ▸ line
  · have attn : (s.attn.set p a).get r = s.attn.get r := PerPort.get_set_ne _ _ port
    exact LineInOrder.congr (ok r) attn (attnCondition_congr (congrArg Attn.flags attn) (congrArg Attn.enables attn) rfl) rfl rfl

/-- A change of the ASU alone keeps a part tidy where it keeps the lines in order. -/
theorem Tidy.withAttn {s : State} (tidy : Tidy s) {x : PerPort Attn} (lines : LinesFollow { s with attn := x }) :
    Tidy { s with attn := x } := tidy_flags tidy rfl rfl rfl rfl rfl rfl lines

theorem lineAnswers_flagsCleared (p : Port) (set : BitVec 9) (s : State) : lineAnswers p s (flagsCleared p set s) :=
  lineAnswers_followAttention rfl rfl (by simp [clearedFlags]) (by simp [clearedFlags])

theorem tidy_flagsCleared {p : Port} {s : State} (tidy : Tidy s) (set : BitVec 9) : Tidy (flagsCleared p set s) := by
  have answers := lineAnswers_flagsCleared p set s
  have mode : ((flagsCleared p set s).attn.get p).mode = (s.attn.get p).mode := by simp [flagsCleared, clearedFlags]
  rw [flagsCleared_eq] at answers mode ⊢
  exact tidy.withAttn (linesFollow_setAttn tidy.lines (.of_answers (tidy.lines p) answers mode rfl rfl))

/-- The line stands by the table of R134 after SET_ATTENTION in MAIN. -/
theorem lineInOrder_reconfigured {p : Port} {s : State} (ok : LineInOrder p s) (main : s.spm.supply = .main)
    (enables : BitVec 10) (mode : AttnMode) : LineInOrder p (reconfigured p enables mode s) := by
  obtain ⟨driven, pulses⟩ := ok
  have here : (reconfigured p enables mode s).attn.get p = reconfiguredAttn p enables mode s := PerPort.get_set_self _ _ _
  have is : (configured enables mode (s.attn.get p)).mode = mode := rfl
  have mono : (reconfigured p enables mode s).tbu = s.tbu := rfl
  have supply : (reconfigured p enables mode s).spm.supply = .main := main
  unfold LineInOrder
  rw [here, reconfiguredAttn_eq, mono, supply]
  generalize attnCondition (reconfigured p enables mode s) p = after
  generalize attnCondition s p = before at pulses driven ⊢
  cases mode with
  | level =>
    rw [reconfiguredLine_level _ _ _ _ is]
    cases after <;> simp [levelLine, configured]
  | pulse =>
    cases after with
    | false =>
      rw [reconfiguredLine_off _ _ _ is]
      simp [releasedLine, configured]
    | true =>
      cases before with
      | false =>
        rw [reconfiguredLine_rise _ _ is]
        simp only [startedPulse, configured, attnPulseTicks, ne_eq, reduceCtorEq, not_false_eq_true, and_self, true_and,
          Option.some.injEq, iff_self]
        exact fun e same => same ▸ (pulse_remaining s.tbu.mono).le
      | true =>
        cases old : (s.attn.get p).mode with
        | level =>
          rw [reconfiguredLine_steady_level _ is]
          simp [releasedLine, configured]
        | pulse =>
          rw [reconfiguredLine_steady_pulse _ is]
          simp only [old, main, true_and] at driven
          simp only [configured, driven, true_and]
          exact fun e running => (pulses e running).2.2.2

theorem tidy_reconfigured {p : Port} {s : State} (tidy : Tidy s) (main : inMain s = true) (enables : BitVec 10)
    (mode : AttnMode) : Tidy (reconfigured p enables mode s) :=
  tidy.withAttn (linesFollow_setAttn tidy.lines
    (lineInOrder_reconfigured (tidy.lines p) ((inMain_iff s).mp main) enables mode))

theorem tidy_configured {p : Port} {s : State} (tidy : Tidy s) (outside : inMain s = false) (enables : BitVec 10)
    (mode : AttnMode) : Tidy (s.setAttn p (configured enables mode (s.attn.get p))) := by
  have dark := (inMain_eq_false_iff s).mp outside
  refine tidy.withAttn (linesFollow_setAttn tidy.lines ?_)
  obtain ⟨driven, pulses⟩ := tidy.lines p
  unfold LineInOrder
  simp only [PerPort.get_set_self, configured]
  exact ⟨⟨fun lit => absurd (driven.mp lit).1 dark, fun h => absurd h.1 dark⟩,
    fun e running => absurd (pulses e running).1 dark⟩

/-! ### The tables (R120, R144, R153, R155) -/

theorem Tidy.loseLease {s : State} (tidy : Tidy s) : Tidy (loseLease s) := by
  unfold Machine.loseLease
  split
  · exact (tidy_flags (t := s.setLease none) tidy rfl rfl rfl rfl rfl rfl tidy.lines).handFlag _ _
  · exact tidy

theorem tidy_profileSet {s : State} (tidy : Tidy s) (t : Port) (r : Profile) : Tidy (profileSet t r s) := by
  have named := (tidy_flags (t := s.setPru { s.pru with profiles := s.pru.profiles.set t r }) tidy rfl rfl rfl rfl rfl rfl
    tidy.lines).handFlag .profile t
  unfold profileSet
  dsimp only
  split
  · exact named.loseLease
  · exact named

theorem mapSet_strobes (m : PerLine StrobeRecord) (s : State) (l : Line) :
    (mapSet m s).strobes.get l = lineAfterMap (s.pru.strobeMap.get l) (m.get l) (s.strobes.get l) := by
  cases l <;> rfl

theorem tidy_mapSet {s : State} (tidy : Tidy s) (m : PerLine StrobeRecord) : Tidy (mapSet m s) := by
  refine tidy.congr rfl rfl rfl tidy.lines fun l e pulsing => ?_
  rw [mapSet_strobes, lineAfterMap] at pulsing
  split at pulsing
  · next same =>
    obtain ⟨main, owner, short⟩ := tidy.strobes l e pulsing
    exact ⟨main, by rw [same] at owner; exact owner, short⟩
  · simp at pulsing

/-! ### The port reset (R56, R96, R107) -/

theorem EntryOk.merged {h : Handle} {q : NoticeQueue} {e : Entry} (ok : EntryOk (noticesOf h q) e) :
    EntryOk [] (e.withParts (mergedParts q.notices h e.parts)) where
  period := ok.period
  missed := ok.missed
  summary := fun r some => by
    refine combineAll_reason some fun x hx => ?_
    rcases List.mem_append.mp hx with notice | pending
    · simpa using (List.mem_filter.mp notice).2
    · exact ok.summary x (by simpa [Entry.parts] using pending)
  terminal := fun r some => by
    rcases mergedParts_terminal some with ⟨n, inside, own, rfl, reason⟩ | pending
    · obtain ⟨ended, fires⟩ := ok.last n (mem_noticesOf.mpr ⟨inside, own⟩) reason
      exact ⟨reason, fires, ended⟩
    · exact ok.terminal r pending
  silent := fun silent => by
    obtain ⟨empty, summary, terminal⟩ := ok.silent silent
    have none : q.notices.filter (fun n => n.handle == h) = [] := empty
    simp [mergedParts, Entry.withParts, Entry.parts, none, summary, terminal, combineAll]
  waits := fun _ => rfl
  last := fun n none => by simp at none

theorem agendaInOrder_mergedReset {p : Port} {s : State} (ok : AgendaInOrder s) : AgendaInOrder (mergedReset p s) := by
  have emptied : AgendaInOrder (replaceQueue p ⟨[], 0⟩ s) :=
    ok.congr (by simp) fun h => by rw [dueAt, dueAt, slot_replaceQueue]
  rw [mergedReset, mergeBack, freeVolatile_eq]
  refine foldl_keeps (P := AgendaInOrder) _ allHandles _ (fun t h ok => ?_) (agendaInOrder_freeWhere emptied _)
  split
  · exact agendaInOrder_updateParts ok _
  · exact ok

theorem linesFollow_mergedReset {p : Port} {s : State} (ok : LinesFollow s) : LinesFollow (mergedReset p s) := by
  have emptied := linesFollow_replaceQueue ok p ⟨[], 0⟩
  generalize before : replaceQueue p ⟨[], 0⟩ s = t at emptied
  have freed := (freeVolatile_same p t).1
  have merged := (mergeBack_same p (s.queues.get p).notices (freeVolatile p t)).1
  obtain ⟨tbu, -, queues, attn, -, -, -, spm, -⟩ := freed.trans merged
  rw [mergedReset, before]
  exact linesFollow_congr emptied attn queues spm (by rw [tbu])

/-- After the merge-back a tidy part is tidy but for the pending parts of the port (R106, R107). -/
theorem tidyBut_mergedReset {p : Port} {s : State} (tidy : Tidy s) : TidyBut p (mergedReset p s) := by
  obtain ⟨⟨tbu, -, pru, -, spm, -⟩, queues, strobes, -, -⟩ := mergedReset_frame p s
  have others : ∀ r, r ≠ p → (mergedReset p s).queues.get r = s.queues.get r := fun r other => by
    rw [queues, PerPort.get_set_ne _ _ other]
  have own : (mergedReset p s).queues.get p = ⟨[], 0⟩ := by rw [queues, PerPort.get_set_self]
  refine ⟨⟨fun h x at_h => ?_, fun r => ?_, fun r n hn => ?_⟩, fun r other room h x at_h owner => ?_,
    fun h x at_h other ended => ?_, agendaInOrder_mergedReset tidy.agenda, linesFollow_mergedReset tidy.lines,
    strobesInOrder_congr tidy.strobes strobes (by rw [pru]) spm (by rw [tbu])⟩
  · obtain ⟨e, before, ⟨other, rfl⟩ | ⟨mine, -, rfl⟩⟩ := slot_mergedReset_inv at_h
    · rw [others _ other]
      exact tidy.records.entries h x before
    · rw [Entry.withParts_keeps _ _ |>.1, mine, own]
      have ok := tidy.records.entries h e before
      rw [mine] at ok
      exact ok.merged
  · by_cases same : r = p
    · rw [same, own]
      exact ⟨by simp, List.Pairwise.nil, fun h => by simp, fun i hi => by simp at hi⟩
    · rw [others r same]
      exact tidy.records.queues r
  · by_cases same : r = p
    · rw [same, own] at hn
      simp at hn
    · rw [others r same] at hn
      obtain ⟨e, at_n, owner⟩ := tidy.records.owned r n hn
      refine ⟨e, ?_, owner⟩
      rw [slot_mergedReset, at_n, Option.bind_some, resetEntry, if_neg (by rwa [owner])]
  · obtain ⟨e, before, ⟨-, rfl⟩ | ⟨mine, -, rfl⟩⟩ := slot_mergedReset_inv at_h
    · rw [hasRoom, others r other] at room
      exact tidy.room r room h x before owner
    · exact absurd (owner.symm.trans mine) other
  · obtain ⟨e, before, ⟨-, rfl⟩ | ⟨mine, -, rfl⟩⟩ := slot_mergedReset_inv at_h
    · have reference := tidy.references h x before ended
      rw [hasReference_iff] at reference ⊢
      rwa [others _ other]
    · exact absurd mine other

theorem tidy_resetNotices {p : Port} {s : State} (tidy : Tidy s) : Tidy (resetNotices p s) := by
  obtain ⟨ok, room⟩ := (tidyBut_mergedReset tidy (p := p)).drain
  rw [resetNotices_eq]
  exact ok.releaseEnded room

theorem tidy_detached {p : Port} {s : State} (tidy : Tidy s) : Tidy (detached p s) := by
  obtain ⟨tbu, -, queues, attn, strobes, pru, spm, -, -, store, agenda⟩ := detached_frame p s
  exact tidy.congr store agenda queues (linesFollow_congr tidy.lines attn queues spm (by rw [tbu]))
    (strobesInOrder_congr tidy.strobes strobes (by rw [pru]) spm (by rw [tbu]))

/-- The defaults of the ASU release the line of their port (R140). -/
theorem tidy_resetAttention {p : Port} {s : State} (tidy : Tidy s) : Tidy (resetAttention p s) := by
  refine tidy.withAttn (linesFollow_setAttn tidy.lines (.of_level (by simp [Attn.defaults]) ?_ (by simp [Attn.defaults])))
  simp [attnCondition, Attn.defaults]

theorem tidy_portReset {p : Port} {s : State} (tidy : Tidy s) : Tidy (portReset p s) := by
  have reset := tidy_resetAttention (p := p) (tidy_resetNotices (p := p) (tidy_detached (p := p) tidy))
  rw [portReset_eq, resetLease]
  split
  · exact reset.loseLease
  · exact reset

end Sys2Proof.Machine
end

section
/-! PROOFS. The authority, the profiles, the frame-error causes and the steering values stay in order under every command
(R10, R13, R40, R112, R129, R147, R149). -/

-- One proof after the other: the memory limit of the check bounds the threads of Lean.
set_option Elab.async false

namespace Sys2Proof.Machine

/-! ### Slots that are inherited (R29, R40) -/

/-- Every entry stood in its slot before, for the same owner. -/
def Inherits (s t : State) : Prop := ∀ h e', slot t h = some e' → ∃ e, slot s h = some e ∧ e'.owner = e.owner

theorem Inherits.of_slots {s t : State} (slots : ∀ h, slot t h = slot s h) : Inherits s t := fun h e' at_h =>
  ⟨e', slots h ▸ at_h, rfl⟩

theorem Inherits.of_store {s t : State} (store : t.agu.store = s.agu.store) : Inherits s t := .of_slots (slot_congr store)

theorem Inherits.trans {s t u : State} (a : Inherits s t) (b : Inherits t u) : Inherits s u := fun h e' at_h => by
  obtain ⟨x, at_t, same⟩ := b h e' at_h
  obtain ⟨e, at_s, same'⟩ := a h x at_t
  exact ⟨e, at_s, same.trans same'⟩

theorem TidyWork.inheritsOwners {s t : State} (work : TidyWork s t) (tidy : Tidy s) : Inherits s t := fun h e' at_h => by
  obtain ⟨e, before, fixed⟩ := work.inherits tidy h e' at_h
  exact ⟨e, before, fixed.1⟩

theorem inherits_drain (p : Port) (s : State) : Inherits s (drain p s) := fun _ _ at_h => by
  obtain ⟨e, before, fixed, -⟩ := (drain_drained p s).1.slot_inv at_h
  exact ⟨e, before, fixed.1⟩

theorem inherits_releaseEnded (p : Port) (s : State) : Inherits s (releaseEnded p s) := fun _ e at_h =>
  ⟨e, (slot_releaseEnded_inv at_h).1, rfl⟩

theorem inherits_mergedReset (p : Port) (s : State) : Inherits s (mergedReset p s) := fun _ _ at_h => by
  obtain ⟨e, before, ⟨-, rfl⟩ | ⟨-, -, rfl⟩⟩ := slot_mergedReset_inv at_h
  · exact ⟨_, before, rfl⟩
  · exact ⟨e, before, rfl⟩

theorem inherits_portReset (p : Port) (s : State) : Inherits s (portReset p s) := by
  have notices : Inherits (detached p s) (resetNotices p (detached p s)) := by
    rw [resetNotices_eq]
    exact (inherits_mergedReset p _).trans ((inherits_drain p _).trans (inherits_releaseEnded p _))
  rw [portReset_eq]
  exact (Inherits.of_slots (slot_detached p s)).trans (notices.trans (.of_store (by rw [(resetLease_frame p _).2.1])))

theorem ownedCount_le {s t : State} (inherits : Inherits s t) (p : Port) : ownedCount t p ≤ ownedCount s p := by
  refine List.countP_mono_left fun h _ owned => ?_
  obtain ⟨e', at_h, own⟩ := (ownedBy_iff t p h).mp owned
  obtain ⟨e, before, same⟩ := inherits h e' at_h
  exact (ownedBy_iff s p h).mpr ⟨e, before, same.symm.trans own⟩

/-- One more entry is owned at most after one slot is written (R40). -/
theorem ownedCount_putSlot_le (h : Handle) (x : Entry) (s : State) (p : Port) :
    ownedCount (putSlot h (some x) s) p ≤ ownedCount s p + if x.owner = p then 1 else 0 := by
  have split_at : ∀ l : List Handle, l.Nodup → l.countP (ownedBy (putSlot h (some x) s) p) ≤
      l.countP (ownedBy s p) + if h ∈ l ∧ x.owner = p then 1 else 0 := fun l nodup => by
    induction l with
    | nil => simp
    | cons g l ih =>
      obtain ⟨fresh, rest⟩ := List.nodup_cons.mp nodup
      have before := ih rest
      rw [List.countP_cons, List.countP_cons]
      by_cases same : g = h
      · subst same
        rw [if_neg fun both => fresh both.1] at before
        have here : ownedBy (putSlot g (some x) s) p g = decide (x.owner = p) := by simp [ownedBy, beq_eq_decide]
        by_cases own : x.owner = p <;> simp [here, own] <;> omega
      · have other : ownedBy (putSlot h (some x) s) p g = ownedBy s p g := by simp [ownedBy, same]
        have away : ¬ h = g := Ne.symm same
        simp only [other, List.mem_cons, away, false_or]
        omega
  have all := split_at allHandles allHandles_nodup
  simpa only [mem_allHandles, true_and, ownedCount] using all

/-! ### Causes (R129) -/

/-- The cause and the FRAME flag of one port stand together (R129). -/
def CauseOk (a : Attn) : Prop := a.cause = .none ↔ a.flags.getLsbD 6 = false

theorem CauseOk.congr {a b : Attn} (ok : CauseOk a) (flags : b.flags = a.flags) (cause : b.cause = a.cause) : CauseOk b := by
  unfold CauseOk at *
  rwa [flags, cause]

theorem causes_of_work {s t : State} (ok : CauseFollowsFrame s) (work : AgendaWork s t) : CauseFollowsFrame t := fun p => by
  obtain ⟨flags, cause, -⟩ := work.sameSetup p
  exact CauseOk.congr (ok p) flags cause

theorem causes_setAttn {s t : State} {p : Port} {a : Attn} (ok : CauseFollowsFrame s) (attn : t.attn = s.attn.set p a)
    (here : CauseOk a) : CauseFollowsFrame t := fun r => by
  change CauseOk (t.attn.get r)
  rw [attn, PerPort.get_set]
  split
  · exact here
  · exact ok r

theorem causeOk_withFlag {a : Attn} (ok : CauseOk a) {f : Flag} (other : f ≠ .frame) :
    CauseOk { a with flags := a.flags ||| flagBit f } := by
  have clear : (flagBit f).getLsbD 6 = false := by
    cases f with
    | frame => exact absurd rfl other
    | _ => decide
  unfold CauseOk at *
  rwa [BitVec.getLsbD_or, clear, Bool.or_false]

theorem causes_handFlag {s : State} (ok : CauseFollowsFrame s) {f : Flag} (other : f ≠ .frame) (p : Port) :
    CauseFollowsFrame (handFlag f p s) := fun r => by
  have same := handFlag_config f p r s
  by_cases port : r = p
  · subst port
    exact CauseOk.congr (causeOk_withFlag (ok r) other) (by rw [handFlag_flags, if_pos rfl]) same.1
  · have attn := handFlag_other f s port
    exact CauseOk.congr (ok r) (by rw [attn]) (by rw [attn])

theorem causes_loseLease {s : State} (ok : CauseFollowsFrame s) : CauseFollowsFrame (loseLease s) := by
  unfold loseLease
  split
  · exact causes_handFlag (s := s.setLease none) ok (by simp) _
  · exact ok

theorem causeOk_clearedFlags {a : Attn} (ok : CauseOk a) (set : BitVec 9) : CauseOk (clearedFlags set a) := by
  unfold CauseOk at *
  cases frame : a.flags.getLsbD 6 <;> cases named : set.getLsbD 6 <;> simp_all [clearedFlags]

theorem causes_frameErrorAt {s : State} (ok : CauseFollowsFrame s) (p : Port) {cause : FrameCause} (some : cause ≠ .none) :
    CauseFollowsFrame (frameErrorAt p cause s) := fun r => by
  obtain ⟨flags, is⟩ := frameErrorAt_attn p r cause s
  by_cases port : r = p
  · rw [if_pos port] at flags is
    change CauseOk ((frameErrorAt p cause s).attn.get r)
    unfold CauseOk
    rw [flags, is, BitVec.getLsbD_or]
    simp [some, flagBit, flagIndex]
  · rw [if_neg port] at flags is
    exact CauseOk.congr (ok r) flags is

/-! ### Rights -/

/-- The authority, the profiles, the causes and the steering values of a part in order. -/
structure Rights (s : State) : Prop where
  profiles : ProfilesInOrder s
  lease : LeaseInOrder s
  quota : QuotaKept s
  causes : CauseFollowsFrame s
  steering : SteeringInRange s

theorem profilesInOrder_congr {s t : State} (ok : ProfilesInOrder s) (profiles : t.pru.profiles = s.pru.profiles) :
    ProfilesInOrder t := by
  unfold ProfilesInOrder
  rwa [profiles]

theorem quotaKept_congr {s t : State} (ok : QuotaKept s) (profiles : t.pru.profiles = s.pru.profiles)
    (inherits : Inherits s t) : QuotaKept t := fun p => by
  rw [profiles]
  exact (ownedCount_le inherits p).trans (ok p)

theorem steeringInRange_congr {s t : State} (ok : SteeringInRange s) (trim : t.tbu.trim = s.tbu.trim)
    (slew : t.tbu.slew = s.tbu.slew) : SteeringInRange t := by
  unfold SteeringInRange
  rwa [trim, slew]

theorem Rights.congr {s t : State} (ok : Rights s) (profiles : t.pru.profiles = s.pru.profiles) (lease : t.lease = s.lease)
    (supply : t.spm.supply = s.spm.supply) (mono : t.tbu.mono = s.tbu.mono) (inherits : Inherits s t)
    (causes : CauseFollowsFrame t) (steering : SteeringInRange t) : Rights t where
  profiles := profilesInOrder_congr ok.profiles profiles
  lease := by
    unfold LeaseInOrder
    rw [profiles, lease, supply, mono]
    exact ok.lease
  quota := quotaKept_congr ok.quota profiles inherits
  causes := causes
  steering := steering

theorem Rights.of_work {s t : State} (ok : Rights s) (work : AgendaWork s t) (inherits : Inherits s t) : Rights t := by
  obtain ⟨tbu, lease, pru, -, spm, -⟩ := id work
  exact ok.congr (by rw [pru]) lease (by rw [spm]) (by rw [tbu]) inherits (causes_of_work ok.causes work)
    (steeringInRange_congr ok.steering (by rw [tbu]) (by rw [tbu]))

/-- No lease is in order. -/
theorem Rights.withoutLease {s : State} (ok : Rights s) : Rights (s.setLease none) where
  profiles := ok.profiles
  lease := fun l none => by simp at none
  quota := ok.quota
  causes := ok.causes
  steering := ok.steering

theorem Rights.handFlag {s : State} (ok : Rights s) {f : Flag} (other : f ≠ .frame) (p : Port) : Rights (handFlag f p s) :=
  ok.congr (by simp) (by simp) (by simp) (by simp) (.of_store (by simp)) (causes_handFlag ok.causes other p)
    (steeringInRange_congr ok.steering (by simp) (by simp))

theorem Rights.handFlagToAll {s : State} (ok : Rights s) {f : Flag} (other : f ≠ .frame) : Rights (handFlagToAll f s) :=
  foldl_keeps (P := Rights) _ _ _ (fun _ p h => h.handFlag other p) ok

/-- A revocation leaves no lease to be in order (R120, R122). -/
theorem Rights.of_loseLease {s : State} (profiles : ProfilesInOrder s) (quota : QuotaKept s) (causes : CauseFollowsFrame s)
    (steering : SteeringInRange s) : Rights (loseLease s) := by
  obtain ⟨tbu, -, agu, -, -, pru, -⟩ := loseLease_frame s
  exact ⟨profilesInOrder_congr profiles (by rw [pru]), fun l held => by simp at held,
    quotaKept_congr quota (by rw [pru]) (.of_store (by rw [agu])), causes_loseLease causes,
    steeringInRange_congr steering (by rw [tbu]) (by rw [tbu])⟩

theorem Rights.loseLease {s : State} (ok : Rights s) : Rights (loseLease s) :=
  .of_loseLease ok.profiles ok.quota ok.causes ok.steering

/-! ### The commands -/

theorem profileInRange_iff (r : Profile) :
    profileInRange r = true ↔ 1 ≤ r.maxLease.toNat ∧ r.maxLease.toNat ≤ 3600 ∧ r.base.toNat ≤ 95 ∧ r.limit.toNat ≤ 95 ∧
      r.quota.toNat ≤ 96 := by
  simp [profileInRange, and_assoc]

theorem profileInRange_of_profileAt {payload : List Byte} {i : Nat} {r : Profile} (record : profileAt payload i = some r) :
    profileInRange r = true := by
  simp only [profileAt] at record
  split at record
  · next checks =>
    obtain ⟨-, low, high, rest⟩ := checks
    cases record
    rw [profileInRange_iff]
    simp only [BitVec.toNat_ofNat]
    rw [Nat.mod_eq_of_lt (by omega)]
    exact ⟨low, high, rest⟩
  · simp at record

/-- A lease just granted runs for its duration (R113, R115). -/
theorem remaining_granted (m : Mono) {d : Nat} (short : d ≤ 3600) :
    (remaining (m + BitVec.ofNat 48 (leaseTicks d)) m).toNat = leaseTicks d := by
  have small : leaseTicks d < 2 ^ 48 := by unfold leaseTicks; omega
  rw [remaining, add_sub_cancel_left, BitVec.toNat_ofNat, Nat.mod_eq_of_lt small]

theorem rights_leaseGranted {x : State} (ok : Rights x) (main : x.spm.supply = .main) {p : Port} {d : Nat}
    (right : (x.pru.profiles.get p).maySteer = true) (short : d ≤ (x.pru.profiles.get p).maxLease.toNat) :
    Rights (x.setLease (some ⟨p, x.tbu.mono + BitVec.ofNat 48 (leaseTicks d)⟩)) where
  profiles := ok.profiles
  lease := fun l held => by
    cases held
    obtain ⟨-, top, -⟩ := (profileInRange_iff _).mp (ok.profiles.1 p)
    refine ⟨right, ?_, main⟩
    have runs := remaining_granted x.tbu.mono (short.trans top)
    have bound : leaseTicks d ≤ leaseTicks 3600 := Nat.mul_le_mul_right _ (short.trans top)
    exact runs.trans_le bound
  quota := ok.quota
  causes := ok.causes
  steering := ok.steering

theorem rights_newEntry {x : State} (ok : Rights x) {p : Port} (quota : ownedCount x p < (x.pru.profiles.get p).quota.toNat)
    (h : Handle) {e : Entry} (own : e.owner = p) : Rights (putSlot h (some e) x) := by
  obtain ⟨tbu, lease, -, attn, -, pru, -, spm, -⟩ := putSlot_same h (some e) x
  refine ⟨profilesInOrder_congr ok.profiles (by rw [pru]), ?_, fun r => ?_, ?_,
    steeringInRange_congr ok.steering (by rw [tbu]) (by rw [tbu])⟩
  · unfold LeaseInOrder
    rw [pru, lease, spm, tbu]
    exact ok.lease
  · have count := ownedCount_putSlot_le h e x r
    have before := ok.quota r
    rw [pru]
    by_cases same : r = p
    · subst same
      rw [if_pos own] at count
      omega
    · rw [if_neg fun is => same (is.symm.trans own)] at count
      omega
  · exact fun r => CauseOk.congr (ok.causes r) (by rw [attn]) (by rw [attn])

/-- A profile in range keeps an ADMIN and the quotas where the checks of R152 say so. -/
theorem tables_profileSet {x : State} (ok : Rights x) {t : Port} {r : Profile} (range : profileInRange r = true)
    (admin : someAdmin (x.pru.profiles.set t r) = true) (quota : ownedCount x t ≤ r.quota.toNat) :
    ProfilesInOrder (x.setPru { x.pru with profiles := x.pru.profiles.set t r }) ∧
      QuotaKept (x.setPru { x.pru with profiles := x.pru.profiles.set t r }) := by
  refine ⟨⟨fun p => ?_, (someAdmin_iff _).mp admin⟩, fun p => ?_⟩
  · change profileInRange ((x.pru.profiles.set t r).get p) = true
    rw [PerPort.get_set]
    split
    · exact range
    · exact ok.profiles.1 p
  · change ownedCount x p ≤ ((x.pru.profiles.set t r).get p).quota.toNat
    rw [PerPort.get_set]
    split
    · next same => exact same ▸ quota
    · exact ok.quota p

theorem rights_profileSet {x : State} (ok : Rights x) {t : Port} {r : Profile} (range : profileInRange r = true)
    (admin : someAdmin (x.pru.profiles.set t r) = true) (quota : ownedCount x t ≤ r.quota.toNat) :
    Rights (profileSet t r x) := by
  obtain ⟨profiles, quotas⟩ := tables_profileSet ok range admin quota
  unfold profileSet
  dsimp only
  split
  · exact .of_loseLease (profilesInOrder_congr profiles (by simp)) (quotaKept_congr quotas (by simp) (.of_store (by simp)))
      (causes_handFlag (s := x.setPru { x.pru with profiles := x.pru.profiles.set t r }) ok.causes (by simp) t)
      (steeringInRange_congr ok.steering (by simp) (by simp))
  · next kept =>
    refine Rights.handFlag ⟨profiles, fun l held => ⟨?_, (ok.lease l held).2⟩, quotas, ok.causes, ok.steering⟩ (by simp) t
    change ((x.pru.profiles.set t r).get l.holder).maySteer = true
    rw [PerPort.get_set]
    split
    · next same =>
      have holder : isHolder x t = true := (isHolder_eq_true x t).mpr ⟨l, held, same⟩
      simpa [holder] using kept
    · exact (ok.lease l held).1

theorem causeOk_resetLine (lost : Bool) : CauseOk (resetLine lost) := by
  unfold CauseOk resetLine
  cases lost <;> decide

theorem rights_portReset {p : Port} {x : State} (tidy : Tidy x) (ok : Rights x) : Rights (portReset p x) := by
  obtain ⟨tbu, pru, spm, -, -, -, -, lease, attn, -⟩ := portReset_frame tidy.references (p := p)
  have causes := causes_setAttn ok.causes attn (causeOk_resetLine _)
  have steering := steeringInRange_congr (t := portReset p x) ok.steering (by rw [tbu]) (by rw [tbu])
  cases holder : isHolder x p with
  | true =>
    rw [holder, if_pos rfl] at lease
    exact ok.withoutLease.congr (by rw [pru]; rfl) lease (by rw [spm]; rfl) (by rw [tbu]; rfl) (inherits_portReset p x) causes
      steering
  | false =>
    rw [holder, if_neg Bool.false_ne_true] at lease
    exact ok.congr (by rw [pru]) lease (by rw [spm]) (by rw [tbu]) (inherits_portReset p x) causes steering

theorem rights_flagsCleared {p : Port} {x : State} (ok : Rights x) (set : BitVec 9) : Rights (flagsCleared p set x) := by
  have causes : CauseFollowsFrame (flagsCleared p set x) := fun r => by
    have here := causes_setAttn (t := x.setAttn p (clearedFlags set (x.attn.get p))) ok.causes rfl
      (causeOk_clearedFlags (ok.causes p) set) r
    exact CauseOk.congr here (by simp [flagsCleared]) (by simp [flagsCleared])
  rw [flagsCleared_eq] at causes ⊢
  exact ok.congr rfl rfl rfl rfl (.of_store rfl) causes ok.steering

theorem acknowledgedThrough_work (p : Port) (i : Nat) (s : State) : AgendaWork s (acknowledgedThrough p i s) :=
  (replaceQueue_work p _ s).trans ((drain_drained p _).1.line.work.trans (releaseEnded_work p _))

theorem slot_of_freeSlot {s : State} {p : Port} {h : Handle} (free : freeSlot s p = some h) : slot s h = none := by
  have both := List.find?_some free
  rw [Bool.and_eq_true, isFree] at both
  simpa using both.2

/-- Every command keeps authority, profiles, causes and steering values in order. -/
theorem CommandChange.rights {p : Port} {x y : State} (change : CommandChange p x y) (main : x.spm.supply = .main)
    (tidy : Tidy x) (ok : Rights x) : Rights y := by
  cases change with
  | nothing => exact ok
  | leaseGranted d right _ short => exact rights_leaseGranted ok main right short
  | leaseReleased => exact ok.withoutLease
  | slewSet amount low high => exact ⟨ok.profiles, ok.lease, ok.quota, ok.causes, ok.steering.1, ok.steering.2.1, low, high⟩
  | trimSet trim low high => exact ⟨ok.profiles, ok.lease, ok.quota, ok.causes, low, high, ok.steering.2.2⟩
  | entryCreated payload c tm due h _ _ quota => exact rights_newEntry ok quota h rfl
  | entryCancelled h e _ at_h _ armed =>
    have work := tidyWork_cancelled at_h armed
    exact ok.of_work work.work (work.inheritsOwners tidy)
  | noticesTaken max => exact ok.of_work (replaceQueue_work p _ x) (.of_store (by simp))
  | noticesAcknowledged i =>
    refine ok.of_work (acknowledgedThrough_work p i x) ?_
    exact (Inherits.of_store (s := x) (by simp)).trans ((inherits_drain p _).trans (inherits_releaseEnded p _))
  | flagsCleared set => exact rights_flagsCleared ok set
  | attentionSet enables mode =>
    obtain ⟨flags, cause, -⟩ := reconfiguredAttn_setup p enables mode x
    exact ok.congr rfl rfl rfl rfl (.of_store rfl)
      (causes_setAttn ok.causes rfl (CauseOk.congr (ok.causes p) flags cause)) ok.steering
  | attentionSetDark enables mode =>
    exact ok.congr rfl rfl rfl rfl (.of_store rfl)
      (causes_setAttn ok.causes rfl (CauseOk.congr (ok.causes p) rfl rfl)) ok.steering
  | profileReplaced payload t r record admin quota =>
    exact rights_profileSet ok (profileInRange_of_profileAt record) admin quota
  | mapReplaced m => exact ok.congr rfl rfl rfl rfl (.of_store rfl) ok.causes ok.steering
  | otherReset t => exact rights_portReset tidy ok

/-- Every command keeps a part tidy. -/
theorem CommandChange.tidy {p : Port} {x y : State} (change : CommandChange p x y) (tidy : Tidy x) : Tidy y := by
  have same : ∀ {t : State}, t.agu = x.agu → t.queues = x.queues → t.attn = x.attn → t.strobes = x.strobes →
      t.pru = x.pru → t.spm = x.spm → t.tbu.mono = x.tbu.mono → Tidy t := fun agu queues attn strobes pru spm mono =>
    tidy_flags tidy agu queues strobes (by rw [pru]) spm mono (linesFollow_congr tidy.lines attn queues spm mono)
  cases change with
  | nothing => exact tidy
  | leaseGranted d => exact same rfl rfl rfl rfl rfl rfl rfl
  | leaseReleased => exact same rfl rfl rfl rfl rfl rfl rfl
  | slewSet amount => exact same rfl rfl rfl rfl rfl rfl rfl
  | trimSet trim => exact same rfl rfl rfl rfl rfl rfl rfl
  | entryCreated payload c tm due h _ judged _ free =>
    exact tidy_newEntry tidy (slot_of_freeSlot free) p _ c due (judgeCreate_ok judged).1
  | entryCancelled h e _ at_h _ armed => exact (tidyWork_cancelled at_h armed).tidy tidy
  | noticesTaken max => exact tidy_noticesTaken tidy max
  | noticesAcknowledged i => exact tidy_acknowledgedThrough tidy i
  | flagsCleared set => exact tidy_flagsCleared tidy set
  | attentionSet enables mode main => exact tidy_reconfigured tidy main enables mode
  | attentionSetDark enables mode outside => exact tidy_configured tidy outside enables mode
  | profileReplaced payload t r => exact tidy_profileSet tidy t r
  | mapReplaced m => exact tidy_mapSet tidy m
  | otherReset t => exact tidy_portReset tidy

end Sys2Proof.Machine
end

section
/-! PROOFS. The ports stand with the supply, the load, the walk and the held commands under every command (R80, R81, R146,
R159, R163, R165 to R170, R178). -/

-- One proof after the other: the memory limit of the check bounds the threads of Lean.
set_option Elab.async false

namespace Sys2Proof.Machine

/-! ### One port -/

/-- The receiver of a port stands with its select and its state (R165, R166, R169, R170, R175). -/
def ReceiverOk (c : PortCtl) : Prop :=
  (c.state ≠ .offline → (c.receiver = .waiting ↔ c.select = false)) ∧
    ∀ limit snap received, c.receiver = .receiving limit snap received →
      c.state ≠ .offline ∧ ReceivedInOrder received ∧ c.dout = receivedOut snap received

/-- A port stands with the supply and the load, with a command of its own under way, and with its place on the held-command
list (R80, R81, R167 to R169, R178). -/
structure PortOk (main ready busy : Prop) (place : Option AgendaCommand) (c : PortCtl) : Prop where
  offline : c.state = .offline ↔ ¬ main
  notReady : c.state = .notReady ↔ main ∧ ¬ ready
  receiver : ReceiverOk c
  working : (∃ x, c.state = .working x ∧ x.held = false) ↔ busy
  held : place ≠ none ↔ ∃ x, c.state = .working x ∧ x.held = true

section Port
variable {main ready busy : Prop} {place : Option AgendaCommand} {c : PortCtl}

theorem PortOk.congr {main' ready' busy' : Prop} {place' : Option AgendaCommand} (ok : PortOk main ready busy place c)
    (m : main' ↔ main) (r : ready' ↔ ready) (b : busy' ↔ busy) (h : place' = place) : PortOk main' ready' busy' place' c := by
  obtain ⟨offline, notReady, receiver, working, held⟩ := ok
  subst h
  exact ⟨by rw [m]; exact offline, by rw [m, r]; exact notReady, receiver, by rw [b]; exact working, held⟩

theorem PortOk.active (ok : PortOk main ready busy place c) (online : c.state ≠ .offline) (loaded : c.state ≠ .notReady) :
    main ∧ ready := by
  have is_main : main := not_not.mp fun outside => online (ok.offline.mpr outside)
  exact ⟨is_main, not_not.mp fun early => loaded (ok.notReady.mpr ⟨is_main, early⟩)⟩

theorem PortOk.of_active (is_main : main) (is_ready : ready) (online : c.state ≠ .offline) (loaded : c.state ≠ .notReady)
    (receiver : ReceiverOk c) (working : (∃ x, c.state = .working x ∧ x.held = false) ↔ busy)
    (held : place ≠ none ↔ ∃ x, c.state = .working x ∧ x.held = true) : PortOk main ready busy place c :=
  ⟨⟨fun h => absurd h online, fun h => absurd is_main h⟩, ⟨fun h => absurd h loaded, fun h => absurd is_ready h.2⟩, receiver,
    working, held⟩

theorem PortOk.not_offline (ok : PortOk main ready busy place c) (is_main : main) : c.state ≠ .offline := fun off =>
  ok.offline.mp off is_main

/-- A port that is not WORKING has no command under way, held or not. -/
theorem PortOk.quiet (ok : PortOk main ready busy place c) (free : ∀ x, c.state ≠ .working x) : ¬ busy ∧ place = none := by
  refine ⟨fun b => ?_, not_not.mp fun p => ?_⟩
  · obtain ⟨x, is, -⟩ := ok.working.mpr b
    exact free x is
  · obtain ⟨x, is, -⟩ := ok.held.mp p
    exact free x is

/-- Another state of a port of a loaded part in MAIN; the receiver stays. -/
theorem PortOk.withState (ok : PortOk main ready busy place c) (is_main : main) (is_ready : ready) {st : PortState}
    {busy' : Prop} {place' : Option AgendaCommand} (online : st ≠ .offline) (loaded : st ≠ .notReady)
    (working : (∃ x, st = .working x ∧ x.held = false) ↔ busy') (held : place' ≠ none ↔ ∃ x, st = .working x ∧ x.held = true) :
    PortOk main ready busy' place' { c with state := st } := by
  refine .of_active is_main is_ready online loaded ⟨fun _ => ok.receiver.1 (ok.not_offline is_main), ?_⟩ working held
  exact fun limit snap received is => ⟨online, (ok.receiver.2 limit snap received is).2⟩

end Port

/-! ### All ports -/

/-- A walk wants the response of a port (R80). -/
def wantsResponse (s : State) (p : Port) : Prop := ∃ w, walkOf s = some w ∧ w.port = p ∧ w.wanted = true

/-- The ports, the load, the walk and the held commands of a part in order, where `o` is a port that is WORKING on a command
that is being run. -/
structure Stage (o : Option Port) (s : State) : Prop where
  ports : ∀ p, PortOk (s.spm.supply = .main) (s.pru.load = .ready) (o = some p ∨ wantsResponse s p) (s.agu.held.get p)
    (s.ports.get p)
  alone : ∀ p, o = some p → ¬ wantsResponse s p
  load : LoadFollowsSupply s
  walk : WalkInOrder s

theorem wantsResponse_congr {s t : State} (state : t.agu.state = s.agu.state) (p : Port) :
    wantsResponse t p ↔ wantsResponse s p := by
  unfold wantsResponse
  rw [walkOf_congr state]

@[simp] theorem wantsResponse_setPort (s : State) (p : Port) (c : PortCtl) (r : Port) :
    wantsResponse (s.setPort p c) r ↔ wantsResponse s r := Iff.rfl

theorem unwanted_some (p : Port) (w : Walk) : unwanted (some p) w = if w.port = p then { w with wanted := false } else w := by
  simp [unwanted, eq_comm]

theorem walkInOrder_congr {s t : State} (ok : WalkInOrder s) (state : t.agu.state = s.agu.state) : WalkInOrder t := by
  unfold WalkInOrder
  rwa [walkOf_congr state]

theorem loadFollowsSupply_congr {s t : State} (ok : LoadFollowsSupply s) (load : t.pru.load = s.pru.load)
    (twoWire : t.pru.twoWire = s.pru.twoWire) (spm : t.spm = s.spm) : LoadFollowsSupply t := by
  unfold LoadFollowsSupply
  rwa [load, twoWire, spm]

/-- What the ports stand with stays. -/
structure SameStage (s t : State) : Prop where
  spm : t.spm = s.spm
  load : t.pru.load = s.pru.load
  twoWire : t.pru.twoWire = s.pru.twoWire
  state : t.agu.state = s.agu.state
  held : t.agu.held = s.agu.held
  ports : t.ports = s.ports

theorem SameStage.of_work {s t : State} (work : AgendaWork s t) : SameStage s t := by
  obtain ⟨-, -, pru, ports, spm, -, -, state, held, -⟩ := work
  exact ⟨spm, by rw [pru], by rw [pru], state, held, ports⟩

theorem Stage.congr {o : Option Port} {s t : State} (ok : Stage o s) (same : SameStage s t) : Stage o t where
  ports := fun p => by
    rw [same.ports]
    exact (ok.ports p).congr (by rw [same.spm]) (by rw [same.load]) (or_congr_right (wantsResponse_congr same.state p))
      (by rw [same.held])
  alone := fun p is => by
    rw [wantsResponse_congr same.state]
    exact ok.alone p is
  load := loadFollowsSupply_congr ok.load same.load same.twoWire same.spm
  walk := walkInOrder_congr ok.walk same.state

/-- A change of one port and its place: the others stay. -/
theorem Stage.setPort {o o' : Option Port} {s t : State} {p : Port} {c : PortCtl} (ok : Stage o s)
    (spm : t.spm = s.spm) (pru : t.pru = s.pru) (ports : t.ports = s.ports.set p c)
    (held : ∀ r, r ≠ p → t.agu.held.get r = s.agu.held.get r)
    (busy : ∀ r, r ≠ p → (o' = some r ∨ wantsResponse t r ↔ o = some r ∨ wantsResponse s r))
    (here : PortOk (s.spm.supply = .main) (s.pru.load = .ready) (o' = some p ∨ wantsResponse t p) (t.agu.held.get p) c)
    (alone : ∀ r, o' = some r → ¬ wantsResponse t r) (walk : WalkInOrder t) : Stage o' t where
  ports := fun r => by
    rw [ports, spm, pru]
    by_cases same : r = p
    · subst same
      rwa [PerPort.get_set_self]
    · rw [PerPort.get_set_ne _ _ same]
      exact (ok.ports r).congr Iff.rfl Iff.rfl (busy r same) (held r same)
  alone := alone
  load := loadFollowsSupply_congr ok.load (by rw [pru]) (by rw [pru]) spm
  walk := walk

section Stage
variable {o : Option Port} {p : Port} {s : State}

/-- A command runs in MAIN with the load READY alone (R167, R168). -/
theorem Stage.runs {cmd : Command} (ok : Stage o s) (working : (s.ports.get p).state = .working cmd) :
    s.spm.supply = .main ∧ s.pru.load = .ready :=
  (ok.ports p).active (by simp [working]) (by simp [working])

theorem Stage.running (ok : Stage (some p) s) : ∃ cmd, (s.ports.get p).state = .working cmd ∧ cmd.held = false :=
  (ok.ports p).working.mpr (.inl rfl)

/-- Its completion leaves a port DONE, with no command under way (R179). -/
theorem Stage.complete (ok : Stage (some p) s) (r : Result) (out : List Byte) : Stage none (complete p r out s) := by
  obtain ⟨cmd, working, unheld⟩ := ok.running
  obtain ⟨main, ready⟩ := ok.runs working
  have steps : Machine.complete p r out s =
      s.setPort p { s.ports.get p with state := .done ⟨cmd.code, cmd.seq, r, out⟩ } := by simp [Machine.complete, working]
  rw [steps]
  have empty : s.agu.held.get p = none := by
    by_contra some
    obtain ⟨x, is, marked⟩ := (ok.ports p).held.mp some
    cases working.symm.trans is
    simp [unheld] at marked
  refine ok.setPort rfl rfl rfl (fun _ _ => rfl) (fun r other => ?_) ?_ (fun _ none => by simp at none)
    (walkInOrder_congr ok.walk rfl)
  · simp [Ne.symm other]
  · refine (ok.ports p).withState main ready (by simp) (by simp) ?_ (by simp [empty])
    exact ⟨fun ⟨x, is, _⟩ => by simp at is, fun busy => absurd (busy.resolve_left (by simp)) (ok.alone p rfl)⟩

/-- A step that is taken keeps its port WORKING: the walk wants its response (R69, R80). -/
theorem Stage.takeStep (ok : Stage (some p) s) (running : isRunning s = true) (target : Time) :
    Stage none (takeStep p target s) := by
  obtain ⟨-, -, agu, -, -, pru, ports, spm, -⟩ := takeStep_frame p target s
  have walk : walkOf (Machine.takeStep p target s) = some (stepWalk p target s) := by simp [walkOf]
  have idle : ∀ r, ¬ wantsResponse s r := fun r ⟨w, walking, _⟩ => by simp [isRunning, walking] at running
  have wants : ∀ r, wantsResponse (Machine.takeStep p target s) r ↔ r = p := fun r => by
    unfold wantsResponse
    rw [walk]
    exact ⟨fun ⟨w, is, port, _⟩ => by cases is; exact port.symm, fun same => ⟨_, rfl, same.symm, rfl⟩⟩
  refine ⟨fun r => ?_, fun _ none => by simp at none, ?_, fun w is => ?_⟩
  · rw [ports, spm, pru]
    refine (ok.ports r).congr Iff.rfl Iff.rfl ?_ (by rw [agu])
    rw [wants, or_iff_left (idle r), Option.some.injEq, @eq_comm _ p r]
    simp
  · exact loadFollowsSupply_congr ok.load (by rw [pru]) (by rw [pru]) spm
  · cases walk.symm.trans is
    exact ⟨rfl, by simp [stepWalk], le_rfl⟩

/-- A command that a walk holds stands at its port's place (R81, R178). -/
theorem Stage.hold (ok : Stage (some p) s) (c : AgendaCommand) : Stage none (markHeld p true (setHeld p (some c) s)) := by
  obtain ⟨cmd, working, unheld⟩ := ok.running
  obtain ⟨main, ready⟩ := ok.runs working
  have working' : ((setHeld p (some c) s).ports.get p).state = .working cmd := by simpa using working
  have steps : markHeld p true (setHeld p (some c) s) =
      (setHeld p (some c) s).setPort p { s.ports.get p with state := .working { cmd with held := true } } := by
    rw [markHeld]
    simp only [working']
    simp
  rw [steps]
  refine ok.setPort (p := p) (c := { s.ports.get p with state := .working { cmd with held := true } }) (by simp) (by simp)
    (by simp) (fun r other => by simp [setHeld, other]) (fun r other => ?_) ?_ (fun _ none => by simp at none) (walkInOrder_congr ok.walk (by simp))
  · rw [wantsResponse_congr (s := s) (by simp)]
    simp [Ne.symm other]
  · rw [wantsResponse_congr (s := s) (by simp)]
    refine (ok.ports p).withState main ready (by simp) (by simp) ?_ (by simp [setHeld])
    simp [ok.alone p rfl]

/-- A held command that is taken is under way again (R82, R178). -/
theorem Stage.release {c : AgendaCommand} (ok : Stage none s) (held : s.agu.held.get p = some c) :
    Stage (some p) (markHeld p false (setHeld p none s)) := by
  obtain ⟨cmd, working, marked⟩ := (ok.ports p).held.mp (by simp [held])
  obtain ⟨main, ready⟩ := ok.runs working
  have working' : ((setHeld p none s).ports.get p).state = .working cmd := by simpa using working
  have steps : markHeld p false (setHeld p none s) =
      (setHeld p none s).setPort p { s.ports.get p with state := .working { cmd with held := false } } := by
    rw [markHeld]
    simp only [working']
    simp
  have unwanted : ¬ wantsResponse s p := fun wanted => by
    obtain ⟨x, is, unheld⟩ := (ok.ports p).working.mpr (.inr wanted)
    cases working.symm.trans is
    simp [marked] at unheld
  rw [steps]
  refine ok.setPort (p := p) (c := { s.ports.get p with state := .working { cmd with held := false } }) (by simp) (by simp)
    (by simp) (fun r other => by simp [setHeld, other]) (fun r other => ?_) ?_ (fun r is => ?_) (walkInOrder_congr ok.walk (by simp))
  · rw [wantsResponse_congr (s := s) (by simp)]
    simp [Ne.symm other]
  · exact (ok.ports p).withState main ready (by simp) (by simp) (by simp) (by simp [setHeld])
  · cases is
    rwa [wantsResponse_congr (s := s) (by simp)]

/-- A port reset leaves its port IDLE: its command and its held command go, and its walk wants no response (R85, R184). -/
theorem Stage.portReset (ok : Stage o s) (main : s.spm.supply = .main) (ready : s.pru.load = .ready)
    (references : EndedHasReference s) {o' : Option Port} (others : ∀ r, o' = some r ↔ o = some r ∧ r ≠ p) :
    Stage o' (portReset p s) := by
  obtain ⟨-, pru, spm, -, -, -, ports, -, -, -, agu⟩ := portReset_frame references (p := p)
  obtain ⟨-, -, -, -, -, -, -, state, held, -⟩ := drainedReset_work p s
  have walk : walkOf (Machine.portReset p s) = (walkOf s).map (unwanted (some p)) := by
    rw [walkOf_congr (t := Machine.portReset p s) (s := detached p s) (by rw [agu, state]), walkOf_detached]
  have wants : ∀ r, wantsResponse (Machine.portReset p s) r ↔ wantsResponse s r ∧ r ≠ p := fun r => by
    unfold wantsResponse
    rw [walk]
    constructor
    · rintro ⟨w', is, port, wanted⟩
      obtain ⟨w, before, rfl⟩ := Option.map_eq_some_iff.mp is
      by_cases same : w.port = p
      · simp [unwanted_some, same] at wanted
      · rw [unwanted_some, if_neg same] at port wanted
        exact ⟨⟨w, before, port, wanted⟩, port ▸ same⟩
    · rintro ⟨⟨w, before, port, wanted⟩, other⟩
      have kept : unwanted (some p) w = w := by rw [unwanted_some, if_neg (port ▸ other)]
      exact ⟨w, by rw [before, Option.map_some, kept], port, wanted⟩
  have places : (Machine.portReset p s).agu.held = s.agu.held.set p none := by rw [agu, held, detached_held]
  have online := (ok.ports p).not_offline main
  generalize Machine.portReset p s = t at *
  refine ok.setPort spm pru ports (fun r other => by rw [places, PerPort.get_set_ne _ _ other]) (fun r other => ?_) ?_
    (fun r is => ?_) fun w' is => ?_
  · rw [wants, others, and_iff_left other, and_iff_left other]
  · refine .of_active main ready (by simp [idlePort]) (by simp [idlePort]) ⟨fun _ => ?_, fun limit snap received is => ?_⟩ ?_ ?_
    · have before := (ok.ports p).receiver.1 online
      simp only [idlePort]
      cases receiver : (s.ports.get p).receiver <;> simp_all
    · simp only [idlePort] at is
      cases receiver : (s.ports.get p).receiver <;> simp [receiver] at is
    · simp [idlePort, wants, others]
    · simp [idlePort, places]
  · rw [wants]
    exact fun both => ok.alone r ((others r).mp is).1 both.1
  · rw [walk] at is
    obtain ⟨w, before, rfl⟩ := Option.map_eq_some_iff.mp is
    have inOrder := ok.walk w before
    rw [unwanted_some]
    split <;> exact inOrder

end Stage

end Sys2Proof.Machine
end

section
/-! PROOFS. A part in order stays in order under every command and at the release of select (R40, R48, R59, R60, R88, R96,
R112, R129, R149, R167). -/

-- One proof after the other: the memory limit of the check bounds the threads of Lean.
set_option Elab.async false

namespace Sys2Proof.Machine

/-! ### A sound part -/

/-- A part in order but for what the end of a walk restores last: the dues, and the walk that held commands wait for. A
command of port `o` may be under way. -/
structure Sound (o : Option Port) (s : State) : Prop where
  tidy : Tidy s
  stage : Stage o s
  rights : Rights s
  nothing : NothingBeforeLoad s

/-- Held commands wait for a walk alone (R81). -/
def HeldWaits (s : State) : Prop := ∀ p, s.agu.held.get p ≠ none → walkOf s ≠ none

theorem stage_of_inOrder {s : State} (ok : InOrder s) : Stage none s where
  ports := fun p => ⟨(ok.ports p).1, (ok.ports p).2, ok.receivers p, by simpa [wantsResponse] using ok.working p, (ok.held p).1⟩
  alone := fun _ none => by simp at none
  load := ok.load
  walk := ok.walk

theorem sound_of_inOrder {s : State} (ok : InOrder s) : Sound none s :=
  ⟨tidy_of_inOrder ok, stage_of_inOrder ok, ⟨ok.profiles, ok.lease, ok.quota, ok.causes, ok.steering⟩, ok.nothing⟩

theorem inOrder_iff (s : State) : InOrder s ↔ Sound none s ∧ NoDueLeftBehind s ∧ HeldWaits s := by
  refine ⟨fun ok => ⟨sound_of_inOrder ok, ok.dues, fun p => (ok.held p).2⟩, fun ⟨sound, dues, waits⟩ => ?_⟩
  obtain ⟨tidy, stage, rights, nothing⟩ := sound
  obtain ⟨entries, queues, pending⟩ := (records_iff s).mpr ⟨tidy.records, tidy.room⟩
  exact ⟨fun p => ⟨(stage.ports p).offline, (stage.ports p).notReady⟩, fun p => (stage.ports p).receiver, stage.load, nothing,
    rights.profiles, rights.lease, rights.quota, tidy.agenda, dues, entries, queues, pending, tidy.references,
    fun p => by simpa [wantsResponse] using (stage.ports p).working, fun p => ⟨(stage.ports p).held, waits p⟩, stage.walk,
    tidy.lines, rights.causes, tidy.strobes, rights.steering⟩

theorem nothing_of_ready {s : State} (ready : s.pru.load = .ready) : NothingBeforeLoad s := fun early => absurd ready early

/-! ### The changes of the commands -/

theorem profileSet_frame (t : Port) (r : Profile) (s : State) :
    (profileSet t r s).tbu = s.tbu ∧ (profileSet t r s).agu = s.agu ∧ (profileSet t r s).ports = s.ports ∧
      (profileSet t r s).spm = s.spm ∧ (profileSet t r s).pru = { s.pru with profiles := s.pru.profiles.set t r } := by
  unfold profileSet
  dsimp only
  split <;> simp

theorem flagsCleared_work (p : Port) (set : BitVec 9) (s : State) :
    (flagsCleared p set s).agu = s.agu ∧ (flagsCleared p set s).ports = s.ports ∧ (flagsCleared p set s).spm = s.spm ∧
      (flagsCleared p set s).pru = s.pru := by
  rw [flagsCleared_eq]
  exact ⟨rfl, rfl, rfl, rfl⟩

/-- A command changes nothing that the ports stand with, but by a port reset of another port. -/
theorem CommandChange.sameStage {p : Port} {x y : State} (change : CommandChange p x y) :
    SameStage x y ∨ ∃ t, t ≠ p ∧ y = portReset t x := by
  cases change with
  | nothing => exact .inl ⟨rfl, rfl, rfl, rfl, rfl, rfl⟩
  | leaseGranted d => exact .inl ⟨rfl, rfl, rfl, rfl, rfl, rfl⟩
  | leaseReleased => exact .inl ⟨rfl, rfl, rfl, rfl, rfl, rfl⟩
  | slewSet amount => exact .inl ⟨rfl, rfl, rfl, rfl, rfl, rfl⟩
  | trimSet trim => exact .inl ⟨rfl, rfl, rfl, rfl, rfl, rfl⟩
  | entryCreated payload c tm due h => exact .inl (.of_work (putSlot_work _ _ x))
  | entryCancelled h e _ at_h _ armed => exact .inl (.of_work (tidyWork_cancelled at_h armed).work)
  | noticesTaken max => exact .inl (.of_work (replaceQueue_work p _ x))
  | noticesAcknowledged i => exact .inl (.of_work (acknowledgedThrough_work p i x))
  | flagsCleared set =>
    obtain ⟨agu, ports, spm, pru⟩ := flagsCleared_work p set x
    exact .inl ⟨spm, by rw [pru], by rw [pru], by rw [agu], by rw [agu], ports⟩
  | attentionSet enables mode => exact .inl ⟨rfl, rfl, rfl, rfl, rfl, rfl⟩
  | attentionSetDark enables mode => exact .inl ⟨rfl, rfl, rfl, rfl, rfl, rfl⟩
  | profileReplaced payload t r =>
    obtain ⟨-, agu, ports, spm, pru⟩ := profileSet_frame t r x
    exact .inl ⟨spm, by rw [pru], by rw [pru], by rw [agu], by rw [agu], ports⟩
  | mapReplaced m => exact .inl ⟨rfl, rfl, rfl, rfl, rfl, rfl⟩
  | otherReset t other => exact .inr ⟨t, other, rfl⟩

theorem Sound.runs {p : Port} {x : State} (ok : Sound (some p) x) : x.spm.supply = .main ∧ x.pru.load = .ready := by
  obtain ⟨cmd, working, -⟩ := ok.stage.running
  exact ok.stage.runs working

theorem CommandChange.sound {p : Port} {x y : State} (change : CommandChange p x y) (ok : Sound (some p) x) :
    Sound (some p) y := by
  obtain ⟨main, ready⟩ := ok.runs
  refine ⟨change.tidy ok.tidy, ?_, change.rights main ok.tidy ok.rights, nothing_of_ready ?_⟩
  · rcases change.sameStage with same | ⟨t, other, reset⟩
    · exact ok.stage.congr same
    · rw [reset]
      refine ok.stage.portReset main ready ok.tidy.references fun r => ?_
      exact ⟨fun is => ⟨is, fun same => other (same.symm.trans (Option.some.inj is).symm)⟩, And.left⟩
  · rcases change.sameStage with same | ⟨t, -, reset⟩
    · rw [same.load, ready]
    · rw [reset, (portReset_frame ok.tidy.references (p := t)).2.1, ready]

/-! ### Dues and held commands -/

/-- No due comes up that does not lie after the timeline value, and the agenda state and the held commands stay, but for
those of a port that is reset. -/
structure LeavesDues (s t : State) : Prop where
  running : isRunning t = isRunning s
  timeline : t.tbu.timeline = s.tbu.timeline
  dues : ∀ h due, dueAt t h = some due → dueAt s h = some due ∨ s.tbu.timeline < due
  places : ∀ p, t.agu.held.get p ≠ none → s.agu.held.get p ≠ none

theorem walkOf_ne_none_iff (s : State) : walkOf s ≠ none ↔ isRunning s = false := by
  cases walk : walkOf s <;> simp [isRunning, walk]

theorem LeavesDues.noDue {s t : State} (leaves : LeavesDues s t) (ok : NoDueLeftBehind s) : NoDueLeftBehind t := by
  rw [noDueLeftBehind_iff] at *
  rw [leaves.running, leaves.timeline]
  exact fun running h due at_h => (leaves.dues h due at_h).elim (ok running h due) id

theorem LeavesDues.waits {s t : State} (leaves : LeavesDues s t) (ok : HeldWaits s) : HeldWaits t := fun p some => by
  rw [walkOf_ne_none_iff, leaves.running, ← walkOf_ne_none_iff]
  exact ok p (leaves.places p some)

theorem LeavesDues.of_store {s t : State} (agu : t.agu = s.agu) (timeline : t.tbu.timeline = s.tbu.timeline) :
    LeavesDues s t where
  running := isRunning_congr (by rw [agu])
  timeline := timeline
  dues := fun h due at_h => .inl (by rwa [dueAt, slot_congr (s := s) (by rw [agu])] at at_h)
  places := fun p => by rw [agu]; exact id

theorem LeavesDues.of_work {s t : State} (work : AgendaWork s t)
    (dues : ∀ h due, dueAt t h = some due → dueAt s h = some due ∨ s.tbu.timeline < due) : LeavesDues s t := by
  obtain ⟨tbu, -, -, -, -, -, -, state, held, -⟩ := work
  exact ⟨isRunning_congr state, by rw [tbu], dues, fun p => by rw [held]; exact id⟩

theorem dueAt_releaseEnded {p : Port} {s : State} {h : Handle} {due : Time} (after : dueAt (releaseEnded p s) h = some due) :
    dueAt s h = some due := by
  obtain ⟨e, at_h, armed⟩ := dueAt_eq_some.mp after
  exact dueAt_eq_some.mpr ⟨e, (slot_releaseEnded_inv at_h).1, armed⟩

theorem dueAt_mergedReset {p : Port} {s : State} {h : Handle} {due : Time} (after : dueAt (mergedReset p s) h = some due) :
    dueAt s h = some due := by
  obtain ⟨x, at_h, armed⟩ := dueAt_eq_some.mp after
  obtain ⟨e, before, ⟨-, rfl⟩ | ⟨-, -, rfl⟩⟩ := slot_mergedReset_inv at_h
  · exact dueAt_eq_some.mpr ⟨_, before, armed⟩
  · exact dueAt_eq_some.mpr ⟨e, before, armed⟩

theorem isRunning_detached (p : Port) (s : State) : isRunning (detached p s) = isRunning s := by
  simp [isRunning, walkOf_detached]

theorem leavesDues_portReset (p : Port) (s : State) : LeavesDues s (portReset p s) := by
  obtain ⟨tbu, agu, -⟩ := resetLease_frame p (resetNotices p (detached p s))
  obtain ⟨tbu', -, -, -, -, -, -, state, held, -⟩ := resetNotices_work p (detached p s)
  rw [portReset_eq]
  refine ⟨?_, ?_, fun h due at_h => .inl ?_, fun r some => ?_⟩
  · rw [isRunning_congr (s := detached p s) (by rw [agu, state]), isRunning_detached]
  · rw [tbu, tbu', (detached_frame p s).1]
  · rw [dueAt, slot_congr (s := resetNotices p (detached p s)) (by rw [agu]), ← dueAt, resetNotices_eq] at at_h
    have before := dueAt_releaseEnded at_h
    rw [(drain_drained p _).1.dueAt] at before
    have merged := dueAt_mergedReset before
    rwa [dueAt, slot_detached] at merged
  · rw [agu, held, detached_held, PerPort.get_set] at some
    split at some
    · exact absurd rfl some
    · exact some

theorem dueAt_cancelled {s : State} {h g : Handle} {e : Entry} {due : Time} (at_h : slot s h = some e)
    (after : dueAt (cancelled h s) g = some due) : dueAt s g = some due := by
  have ended : dueAt (endEntry h .cancelled s) h = none := by rw [dueAt, slot_endEntry at_h]; rfl
  have others : ∀ g, g ≠ h → dueAt (endEntry h .cancelled s) g = dueAt s g := fun g other => by
    rw [dueAt, endEntry, (entryWork_setStatus e.owner at_h _).others g other, ← dueAt]
  have kept : dueAt (endEntry h .cancelled s) g = some due := by
    cases reference : hasReference s h e with
    | true => rwa [cancelled_kept at_h reference] at after
    | false =>
      rw [cancelled_alone at_h reference, dueAt_putSlot] at after
      split at after
      · simp at after
      · exact after
  by_cases same : g = h
  · rw [same, ended] at kept
    simp at kept
  · rwa [others g same] at kept

theorem CommandChange.leavesDues {p : Port} {x y : State} (change : CommandChange p x y) : LeavesDues x y := by
  cases change with
  | nothing => exact .of_store rfl rfl
  | leaseGranted d => exact .of_store rfl rfl
  | leaseReleased => exact .of_store rfl rfl
  | slewSet amount => exact .of_store rfl rfl
  | trimSet trim => exact .of_store rfl rfl
  | entryCreated payload c tm due h _ judged =>
    refine .of_work (putSlot_work _ _ x) fun g d at_g => ?_
    rw [dueAt_putSlot] at at_g
    split at at_g
    · cases at_g
      exact .inr (judgeCreate_ok judged).2
    · exact .inl at_g
  | entryCancelled h e _ at_h _ armed =>
    exact .of_work (tidyWork_cancelled at_h armed).work fun g d at_g => .inl (dueAt_cancelled at_h at_g)
  | noticesTaken max => exact .of_store (by simp) (by simp)
  | noticesAcknowledged i =>
    refine .of_work (acknowledgedThrough_work p i x) fun g d at_g => .inl ?_
    have before := dueAt_releaseEnded at_g
    rw [(drain_drained p _).1.dueAt] at before
    rwa [dueAt, slot_replaceQueue] at before
  | flagsCleared set => exact .of_store (flagsCleared_work p set x).1 (by rw [flagsCleared_eq])
  | attentionSet enables mode => exact .of_store rfl rfl
  | attentionSetDark enables mode => exact .of_store rfl rfl
  | profileReplaced payload t r =>
    obtain ⟨tbu, agu, -⟩ := profileSet_frame t r x
    exact .of_store agu (by rw [tbu])
  | mapReplaced m => exact .of_store rfl rfl
  | otherReset t => exact leavesDues_portReset t x

/-! ### The end of a command -/

theorem Tidy.handFlagToOthers {s : State} (tidy : Tidy s) (f : Flag) (p : Port) : Tidy (handFlagToOthers f p s) :=
  foldl_keeps (P := Tidy) _ _ _ (fun t q ok => by
    split
    · exact ok
    · exact ok.handFlag f q) tidy

theorem Rights.handFlagToOthers {s : State} (ok : Rights s) {f : Flag} (other : f ≠ .frame) (p : Port) :
    Rights (handFlagToOthers f p s) :=
  foldl_keeps (P := Rights) _ _ _ (fun t q ok => by
    split
    · exact ok
    · exact ok.handFlag other q) ok

theorem Tidy.handValidityChange {s : State} (tidy : Tidy s) (v : Validity) : Tidy (handValidityChange v s) := by
  unfold Machine.handValidityChange
  split
  · exact tidy.handFlagToAll .validity
  · exact tidy

theorem Rights.handValidityChange {s : State} (ok : Rights s) (v : Validity) : Rights (handValidityChange v s) := by
  unfold Machine.handValidityChange
  split
  · exact ok.handFlagToAll (by simp)
  · exact ok

theorem Rights.setAgendaState {s : State} (ok : Rights s) (st : AgendaState) : Rights (setAgendaState st s) :=
  ok.congr rfl rfl rfl rfl (.of_store rfl) ok.causes ok.steering

theorem Tidy.takeStep {s : State} (tidy : Tidy s) (p : Port) (target : Time) : Tidy (takeStep p target s) := by
  have moved : Tidy (s.setTbu { s.tbu with timeline := target, slew := 0, validity := .valid }) :=
    tidy_flags tidy rfl rfl rfl rfl rfl rfl (linesFollow_congr tidy.lines rfl rfl rfl rfl)
  rw [takeStep_eq]
  exact ((moved.handFlagToOthers .timeAdjusted p).handValidityChange _).setAgendaState _

theorem Rights.takeStep {s : State} (ok : Rights s) (p : Port) (target : Time) : Rights (takeStep p target s) := by
  obtain ⟨low, high, -, -⟩ := ok.steering
  have moved : Rights (s.setTbu { s.tbu with timeline := target, slew := 0, validity := .valid }) :=
    ok.congr rfl rfl rfl rfl (.of_store rfl) ok.causes
      ⟨low, high, (by decide : -maxSlew ≤ 0), (by decide : (0 : Int) ≤ maxSlew)⟩
  rw [takeStep_eq]
  exact ((moved.handFlagToOthers (f := .timeAdjusted) (by simp) p).handValidityChange _).setAgendaState _

theorem Rights.complete {s : State} (ok : Rights s) (p : Port) (r : Result) (out : List Byte) : Rights (complete p r out s) :=
  ok.congr (by simp) (by simp) (by simp) (by simp) (.of_store (by simp))
    (fun q => CauseOk.congr (ok.causes q) (by simp) (by simp)) (steeringInRange_congr ok.steering (by simp) (by simp))

/-- Where only the Port Controllers, the held commands and the agenda state change, the rest stays sound. -/
theorem Sound.of_ports {o o' : Option Port} {s t : State} (ok : Sound o s) (stage : Stage o' t)
    (tbu : t.tbu = s.tbu) (lease : t.lease = s.lease) (store : t.agu.store = s.agu.store)
    (agenda : t.agu.agenda = s.agu.agenda) (queues : t.queues = s.queues) (attn : t.attn = s.attn)
    (strobes : t.strobes = s.strobes) (pru : t.pru = s.pru) (spm : t.spm = s.spm) : Sound o' t where
  tidy := ok.tidy.congr store agenda queues (linesFollow_congr ok.tidy.lines attn queues spm (by rw [tbu]))
    (strobesInOrder_congr ok.tidy.strobes strobes (by rw [pru]) spm (by rw [tbu]))
  stage := stage
  rights := ok.rights.congr (by rw [pru]) lease (by rw [spm]) (by rw [tbu]) (.of_store store)
    (fun p => CauseOk.congr (ok.rights.causes p) (by rw [attn]) (by rw [attn]))
    (steeringInRange_congr ok.rights.steering (by rw [tbu]) (by rw [tbu]))
  nothing := by
    unfold NothingBeforeLoad
    rw [pru, queues, strobes, lease]
    exact fun early => ⟨fun h => (slot_congr store h).trans ((ok.nothing early).1 h), (ok.nothing early).2⟩

theorem Sound.complete {p : Port} {s : State} (ok : Sound (some p) s) (r : Result) (out : List Byte) :
    Sound none (complete p r out s) :=
  ok.of_ports (ok.stage.complete r out) (by simp) (by simp) (by simp) (by simp) (by simp) (by simp) (by simp) (by simp) (by simp)

/-- However a command ends, the part is sound, no due entry is left behind, and held commands wait for a walk. -/
theorem CommandEnd.keeps {p : Port} {x t : State} (done : CommandEnd p x t) (ok : Sound (some p) x) :
    Sound none t ∧ (NoDueLeftBehind x → NoDueLeftBehind t) ∧ (HeldWaits x → HeldWaits t) := by
  obtain ⟨main, ready⟩ := ok.runs
  cases done with
  | completed r out y change =>
    have leaves := change.leavesDues
    have last : LeavesDues y (complete p r out y) := .of_store (by simp) (by simp)
    exact ⟨(change.sound ok).complete r out, fun dues => last.noDue (leaves.noDue dues),
      fun waits => last.waits (leaves.waits waits)⟩
  | reset =>
    have leaves := leavesDues_portReset p x
    refine ⟨⟨tidy_portReset ok.tidy, ok.stage.portReset main ready ok.tidy.references fun r => ?_,
      rights_portReset ok.tidy ok.rights, nothing_of_ready ?_⟩, leaves.noDue, leaves.waits⟩
    · exact ⟨fun none => by simp at none, fun both => absurd (Option.some.inj both.1).symm both.2⟩
    · rw [(portReset_frame ok.tidy.references (p := p)).2.1, ready]
  | stepped target running =>
    have walk : walkOf (takeStep p target x) ≠ none := by simp [walkOf]
    refine ⟨⟨ok.tidy.takeStep p target, ok.stage.takeStep running target, ok.rights.takeStep p target,
      nothing_of_ready (by simpa using ready)⟩, fun _ runs => ?_, fun _ _ _ => walk⟩
    rw [(walkOf_ne_none_iff _).mp walk] at runs
    simp at runs
  | held c waits =>
    have walk : isRunning (markHeld p true (setHeld p (some c) x)) = false := by
      rw [isRunning_congr (s := x) (by simp), waits]
    refine ⟨ok.of_ports (ok.stage.hold c) (by simp) (by simp) (by simp) (by simp) (by simp) (by simp) (by simp) (by simp)
      (by simp), fun _ runs => ?_, fun _ _ _ => (walkOf_ne_none_iff _).mpr walk⟩
    rw [walk] at runs
    simp at runs

end Sys2Proof.Machine
end

section
/-! PROOFS. The rows of a transaction, the expiries and the tick keep a part in order (R3, R40, R59, R60, R129, R165 to
R173). -/

-- One proof after the other: the memory limit of the check bounds the threads of Lean.
set_option Elab.async false

namespace Sys2Proof.Machine

/-- A row that leaves the dues and the held commands keeps the order where the part is sound after it. -/
theorem InOrder.of_leaves {s t : State} (ok : InOrder s) (sound : Sound none t) (leaves : LeavesDues s t) : InOrder t := by
  obtain ⟨-, dues, waits⟩ := (inOrder_iff s).mp ok
  exact (inOrder_iff t).mpr ⟨sound, leaves.noDue dues, leaves.waits waits⟩

/-! ### The release of select (R165, R171 to R174) -/

theorem selectReleased_frame (p : Port) (bytes : List Byte) (s : State) :
    selectReleased p bytes s = { s with ports := s.ports.set p (releasedCtl (s.ports.get p) bytes) } := rfl

theorem receiverOk_releasedCtl {c : PortCtl} (ok : ReceiverOk c) (bytes : List Byte) : ReceiverOk (releasedCtl c bytes) := by
  refine ⟨fun online => ?_, fun limit snap received is => ?_⟩
  · have on : isOffline c = false := by simpa [isOffline, releasedCtl] using online
    simp [releasedCtl, on]
  · cases off : isOffline c with
    | false => simp [releasedCtl, off] at is
    | true =>
      simp only [releasedCtl, off, if_true] at is
      exact absurd (by simpa [isOffline] using off) (ok.2 limit snap received is).1

/-- A change of the receiver of one port keeps the stage. -/
theorem Stage.withReceiver {o : Option Port} {p : Port} {s : State} (ok : Stage o s) {c : PortCtl}
    (state : c.state = (s.ports.get p).state) (receiver : ReceiverOk c) : Stage o (s.setPort p c) := by
  refine ok.setPort rfl rfl rfl (fun _ _ => rfl) (fun _ _ => Iff.rfl) ?_ ok.alone ok.walk
  obtain ⟨offline, notReady, -, working, held⟩ := ok.ports p
  rw [← state] at offline notReady working held
  exact ⟨offline, notReady, receiver, working, held⟩

theorem Sound.withReceiver {o : Option Port} {p : Port} {s : State} (ok : Sound o s) {c : PortCtl}
    (state : c.state = (s.ports.get p).state) (receiver : ReceiverOk c) : Sound o (s.setPort p c) :=
  ok.of_ports (ok.stage.withReceiver state receiver) rfl rfl rfl rfl rfl rfl rfl rfl rfl

theorem Sound.selectReleased {p : Port} {s : State} (ok : Sound none s) (bytes : List Byte) :
    Sound none (selectReleased p bytes s) :=
  ok.withReceiver rfl (receiverOk_releasedCtl (ok.stage.ports p).receiver bytes)

/-- Taking a command leaves its port WORKING on it, with nothing held (R174). -/
theorem Stage.takeCommand {p : Port} {s : State} (ok : Stage none s) (accepts : acceptsRequest (s.ports.get p).state = true)
    (code seq : Byte) (payload : List Byte) : Stage (some p) (takeCommand p code seq payload s) := by
  have free : ∀ x, (s.ports.get p).state ≠ .working x := fun x is => by simp [is, acceptsRequest] at accepts
  have online : (s.ports.get p).state ≠ .offline := fun is => by simp [is, acceptsRequest] at accepts
  have loaded : (s.ports.get p).state ≠ .notReady := fun is => by simp [is, acceptsRequest] at accepts
  obtain ⟨main, ready⟩ := (ok.ports p).active online loaded
  obtain ⟨idle, empty⟩ := (ok.ports p).quiet free
  refine ok.setPort rfl rfl rfl (fun _ _ => rfl) (fun r other => ?_) ?_ (fun r is => ?_) ok.walk
  · exact or_congr_left (by simp [Ne.symm other])
  · refine (ok.ports p).withState main ready (by simp) (by simp) (by simp) ?_
    rw [show (Machine.takeCommand p code seq payload s).agu.held.get p = none from empty]
    simp
  · cases is
    exact fun wanted => idle (.inr wanted)

theorem Sound.takeCommand {p : Port} {s : State} (ok : Sound none s) (accepts : acceptsRequest (s.ports.get p).state = true)
    (code seq : Byte) (payload : List Byte) : Sound (some p) (takeCommand p code seq payload s) :=
  ok.of_ports (ok.stage.takeCommand accepts code seq payload) rfl rfl rfl rfl rfl rfl rfl rfl rfl

theorem linesFollow_frameErrorAt {s : State} (ok : LinesFollow s) (p : Port) (cause : FrameCause) :
    LinesFollow (frameErrorAt p cause s) := by
  intro r
  by_cases port : r = p
  · subst port
    exact LineInOrder.of_answers (ok r) (lineAnswers_followAttention rfl rfl (by simp) (by simp)) (by simp [frameErrorAt])
      (by simp) (by simp)
  · have attn : (frameErrorAt p cause s).attn.get r = s.attn.get r := by
      rw [frameErrorAt, followAttention_other _ _ _ _ port]
      simp [port]
    exact LineInOrder.congr (ok r) attn
      (attnCondition_congr (by rw [attn]) (by rw [attn]) (noticeSource_congr (by simp) r)) (by simp) (by simp)

theorem Sound.frameErrorAt {o : Option Port} {s : State} (ok : Sound o s) (p : Port) {cause : FrameCause}
    (some : cause ≠ .none) : Sound o (frameErrorAt p cause s) where
  tidy := tidy_flags ok.tidy (by simp) (by simp) (by simp) (by simp) (by simp) (by simp)
    (linesFollow_frameErrorAt ok.tidy.lines p cause)
  stage := ok.stage.congr ⟨by simp, by simp, by simp, by simp, by simp, by simp⟩
  rights := ok.rights.congr (by simp) (by simp) (by simp) (by simp) (.of_store (by simp))
    (causes_frameErrorAt ok.rights.causes p some) (steeringInRange_congr ok.rights.steering (by simp) (by simp))
  nothing := by
    unfold NothingBeforeLoad
    simp only [frameErrorAt_frame]
    exact fun early => ⟨fun h => (slot_congr (by simp) h).trans ((ok.nothing early).1 h), (ok.nothing early).2⟩

/-- Whatever is judged at the release of select, the part stays in order. -/
theorem ReleaseEnd.inOrder {p : Port} {bytes : List Byte} {s t : State} (released : ReleaseEnd p bytes s t)
    (ok : InOrder s) : InOrder t := by
  have sound := (sound_of_inOrder ok).selectReleased (p := p) bytes
  have leaves : LeavesDues s (selectReleased p bytes s) := .of_store rfl rfl
  cases released with
  | notSelected => exact ok
  | unjudged => exact ok.of_leaves sound leaves
  | frameError cause _ _ some =>
    exact ok.of_leaves (sound.frameErrorAt p some) (.of_store (by simp [selectReleased]) (by simp [selectReleased]))
  | command code seq payload t selected accepts done =>
    obtain ⟨-, dues, waits⟩ := (inOrder_iff s).mp ok
    have state : ((selectReleased p bytes s).ports.get p).state = (s.ports.get p).state := by
      rw [selectReleased_frame, PerPort.get_set_self]
      rfl
    have taken := sound.takeCommand (p := p) (by rwa [state]) code seq payload
    have leaves : LeavesDues s (Machine.takeCommand p code seq payload (selectReleased p bytes s)) := .of_store rfl rfl
    obtain ⟨after, noDue, wait⟩ := done.keeps taken
    exact (inOrder_iff t).mpr ⟨after, noDue (leaves.noDue dues), wait (leaves.waits waits)⟩

/-! ### The assertion of select (R166) -/

theorem receiverOk_asserted {p : Port} {s : State} (ok : ReceiverOk (s.ports.get p)) (free : (s.ports.get p).select = false)
    (bytes : List Byte) :
    ReceiverOk (clocked { s.ports.get p with select := true, receiver := assertedReceiver p s, dout := [] } bytes) := by
  cases off : isOffline (s.ports.get p) with
  | true =>
    have state : (s.ports.get p).state = .offline := by simpa [isOffline] using off
    have away : isOffline { s.ports.get p with select := true, receiver := assertedReceiver p s, dout := [] } = true := off
    rw [clocked, if_pos away]
    refine ⟨fun online => absurd state online, fun limit snap received is => absurd state ?_⟩
    have before : (s.ports.get p).receiver = .receiving limit snap received := by
      simp only [assertedReceiver] at is
      cases receiver : (s.ports.get p).receiver <;> simp_all
    exact (ok.2 limit snap received before).1
  | false =>
    have online : (s.ports.get p).state ≠ .offline := by simpa [isOffline] using off
    have here : isOffline { s.ports.get p with select := true, receiver := assertedReceiver p s, dout := [] } = false := off
    have waiting := (ok.1 online).mpr free
    have receiver : assertedReceiver p s =
        .receiving (s.tbu.mono + frameLimitTicks) (snapshotOf s p) noneReceived := by
      simp [assertedReceiver, waiting, off]
    rw [clocked, if_neg (by simp [here]), receiver]
    refine ⟨fun _ => by simp [receiverClocked], fun limit snap received is => ⟨online, ?_⟩⟩
    cases is
    have out := transactionOut_of_receiving (c := { s.ports.get p with
      select := true
      receiver := .receiving (s.tbu.mono + frameLimitTicks) (snapshotOf s p) noneReceived
      dout := [] }) rfl online rfl bytes
    exact ⟨receiveBytes_inOrder bytes, out⟩

theorem inOrder_selectAssertion {s : State} (ok : InOrder s) (p : Port) (bytes : List Byte) :
    InOrder (selectAssertion p bytes s) := by
  unfold selectAssertion
  dsimp only
  split
  · exact ok
  · next free =>
    refine ok.of_leaves ((sound_of_inOrder ok).withReceiver ?_ (receiverOk_asserted (ok.receivers p) (by simpa using free) bytes))
      (.of_store rfl rfl)
    unfold clocked
    split <;> rfl

/-! ### The expiries (R3) -/

theorem Sound.loseLease {o : Option Port} {s : State} (ok : Sound o s) : Sound o (loseLease s) where
  tidy := ok.tidy.loseLease
  stage := ok.stage.congr ⟨by simp, by simp, by simp, by simp, by simp, by simp⟩
  rights := ok.rights.loseLease
  nothing := by
    unfold NothingBeforeLoad
    simp only [loseLease_frame]
    exact fun early => ⟨fun h => (slot_congr (by simp) h).trans ((ok.nothing early).1 h), (ok.nothing early).2.1,
      (ok.nothing early).2.2.1, trivial⟩

theorem inOrder_leaseExpiry {s : State} (ok : InOrder s) : InOrder (leaseExpiry s) := by
  unfold leaseExpiry
  split
  · exact ok.of_leaves (sound_of_inOrder ok).loseLease (.of_store (by simp) (by simp))
  · exact ok

theorem receiverOk_discarded {c : PortCtl} (ok : ReceiverOk c) {limit : Mono} {snap : Snapshot} {received : Received}
    (is : c.receiver = .receiving limit snap received) : ReceiverOk { c with receiver := .discarding } := by
  refine ⟨fun online => ?_, fun _ _ _ no => by simp at no⟩
  have before := ok.1 online
  simp [is] at before
  simp [before]

theorem inOrder_frameTimeout {s : State} (ok : InOrder s) (p : Port) : InOrder (frameTimeout p s) := by
  unfold frameTimeout
  split
  · next due =>
    cases receiver : (s.ports.get p).receiver with
    | waiting => simp [frameLimitDue, receiver] at due
    | discarding => simp [frameLimitDue, receiver] at due
    | receiving limit snap received =>
      have steps : discardTransaction p s = s.setPort p { s.ports.get p with receiver := .discarding } := by
        simp [discardTransaction, receiver]
      rw [steps]
      have sound := (sound_of_inOrder ok).withReceiver (p := p) (c := { s.ports.get p with receiver := .discarding }) rfl
        (receiverOk_discarded (ok.receivers p) receiver)
      exact ok.of_leaves (sound.frameErrorAt p (cause := .timeout) (by simp)) (.of_store (by simp) (by simp))
  · exact ok

/-- A change of the ASU state alone that keeps flags and causes keeps the part sound where it keeps the lines. -/
theorem Sound.withLine {o : Option Port} {s : State} (ok : Sound o s) {p : Port} {a : Attn}
    (flags : a.flags = (s.attn.get p).flags) (cause : a.cause = (s.attn.get p).cause)
    (lines : LinesFollow (s.setAttn p a)) : Sound o (s.setAttn p a) where
  tidy := ok.tidy.withAttn lines
  stage := ok.stage.congr ⟨rfl, rfl, rfl, rfl, rfl, rfl⟩
  rights := ok.rights.congr rfl rfl rfl rfl (.of_store rfl)
    (causes_setAttn ok.rights.causes rfl (CauseOk.congr (ok.rights.causes p) flags cause)) ok.rights.steering
  nothing := ok.nothing

theorem inOrder_attnPulseEnd {s : State} (ok : InOrder s) (p : Port) : InOrder (attnPulseEnd p s) := by
  unfold attnPulseEnd
  split
  · next due =>
    refine ok.of_leaves ((sound_of_inOrder ok).withLine rfl rfl (linesFollow_setAttn ok.lines ?_)) (.of_store rfl rfl)
    obtain ⟨main, mode, -⟩ := (ok.lines p).2 _ ((attnPulseDue_iff p).mp due)
    unfold LineInOrder
    simp [releasedLine, mode]
  · exact ok

theorem inOrder_strobePulseEnd {s : State} (ok : InOrder s) (l : Line) : InOrder (strobePulseEnd l s) := by
  unfold strobePulseEnd
  split
  · have idle : ∀ m e, (s.strobes.set l .idle).get m = .pulsing e → s.strobes.get m = .pulsing e := fun m e pulsing => by
      rw [PerLine.get_set] at pulsing
      split at pulsing
      · simp at pulsing
      · exact pulsing
    have sound := sound_of_inOrder ok
    refine ok.of_leaves ⟨sound.tidy.congr rfl rfl rfl sound.tidy.lines fun m e pulsing => ok.strobes m e (idle m e pulsing),
      sound.stage.congr ⟨rfl, rfl, rfl, rfl, rfl, rfl⟩, sound.rights.congr rfl rfl rfl rfl (.of_store rfl) ok.causes ok.steering,
      fun early => ?_⟩ (.of_store rfl rfl)
    obtain ⟨slots, queues, strobes, lease⟩ := ok.nothing early
    refine ⟨slots, queues, fun m => ?_, lease⟩
    change (s.strobes.set l .idle).get m = .idle
    rw [PerLine.get_set]
    split
    · rfl
    · exact strobes m
  · exact ok

end Sys2Proof.Machine
end

section
/-! PROOFS. The tick, the crystal and the walk keep a part in order (R1 to R15, R60, R70 to R75). -/

-- One proof after the other: the memory limit of the check bounds the threads of Lean.
set_option Elab.async false

namespace Sys2Proof.Machine

/-! ### Work of the AGU -/

theorem Sound.of_flags {o : Option Port} {s t : State} (ok : Sound o s) (tidy : Tidy t) (rights : Rights t)
    (agu : t.agu = s.agu) (queues : t.queues = s.queues) (strobes : t.strobes = s.strobes) (lease : t.lease = s.lease)
    (pru : t.pru = s.pru) (ports : t.ports = s.ports) (spm : t.spm = s.spm) : Sound o t where
  tidy := tidy
  stage := ok.stage.congr ⟨spm, by rw [pru], by rw [pru], by rw [agu], by rw [agu], ports⟩
  rights := rights
  nothing := by
    unfold NothingBeforeLoad
    rw [pru, queues, strobes, lease]
    exact fun early => ⟨fun h => (slot_congr (by rw [agu]) h).trans ((ok.nothing early).1 h), (ok.nothing early).2⟩

theorem Sound.handValidityChange {o : Option Port} {s : State} (ok : Sound o s) (v : Validity) :
    Sound o (handValidityChange v s) := by
  refine ok.of_flags (ok.tidy.handValidityChange v) (ok.rights.handValidityChange v) ?_ ?_ ?_ ?_ ?_ ?_ ?_ <;>
  · unfold Machine.handValidityChange
    split <;> simp

/-- Work of the AGU on entries keeps a part sound; without entries there is none (R146). -/
theorem Sound.of_work {o : Option Port} {s t : State} (ok : Sound o s) (work : TidyWork s t)
    (idle : (∀ h, slot s h = none) → t = s) : Sound o t := by
  by_cases ready : s.pru.load = .ready
  · obtain ⟨-, -, pru, -⟩ := id work.work
    exact ⟨work.tidy ok.tidy, ok.stage.congr (.of_work work.work),
      ok.rights.of_work work.work (work.inheritsOwners ok.tidy), nothing_of_ready (by rw [pru, ready])⟩
  · rwa [idle (ok.nothing ready).1]

theorem takeTimelineValue_empty {s : State} (empty : ∀ h, slot s h = none) : takeTimelineValue s = s :=
  takeTimelineValue_idle (.inr (dueHead_of_none fun h due at_h => by simp [dueAt, empty] at at_h))

theorem Sound.takeTimelineValue {o : Option Port} {s : State} (ok : Sound o s) : Sound o (takeTimelineValue s) :=
  ok.of_work (tidyWork_takeTimelineValue s) takeTimelineValue_empty

/-- The comparison of the agenda leaves no due entry behind (R60). -/
theorem noDueLeftBehind_takeTimelineValue {s : State} (tidy : Tidy s) : NoDueLeftBehind (takeTimelineValue s) := by
  obtain ⟨tbu, -, -, -, -, -, -, state, -⟩ := takeTimelineValue_work s
  rw [noDueLeftBehind_iff, isRunning_congr state, tbu]
  intro running h due at_h
  exact no_due_of_head ((tidyWork_takeTimelineValue s).tidy tidy).agenda (takeTimelineValue_fires tidy running).2 at_h

theorem heldWaits_congr {s t : State} (ok : HeldWaits s) (state : t.agu.state = s.agu.state)
    (held : t.agu.held = s.agu.held) : HeldWaits t := fun p => by
  rw [held, walkOf_congr state]
  exact ok p

/-! ### The tick (R1 to R13, R27) -/

theorem slew_ticked (x : Tbu) (adv : Nat) (low : -maxSlew ≤ x.slew) (high : x.slew ≤ maxSlew) :
    -maxSlew ≤ (ticked x adv).slew ∧ (ticked x adv).slew ≤ maxSlew := by
  unfold ticked slewRow
  dsimp only
  split_ifs <;> omega

theorem leaseInOrder_tick {s : State} (ok : LeaseInOrder s) (no_limit : limitDue s = false) {x : Tbu}
    (mono : x.mono = s.tbu.mono + 1) : LeaseInOrder { s with tbu := x } := fun l held => by
  obtain ⟨steer, short, main⟩ := ok l held
  have ahead : l.endAt ≠ s.tbu.mono := fun same => by
    have later := ((limitDue_eq_false_iff s).mp no_limit).1
    have lease : s.lease = some l := held
    simp [leaseDue, lease, same] at later
  refine ⟨steer, ?_, main⟩
  show (remaining l.endAt x.mono).toNat ≤ leaseTicks 3600
  rw [mono]
  exact (remaining_tick ahead).le.trans short

theorem Rights.tick {s : State} (ok : Rights s) (no_limit : limitDue s = false) (adv : Nat) :
    Rights { s with tbu := ticked s.tbu adv } where
  profiles := ok.profiles
  lease := leaseInOrder_tick ok.lease no_limit rfl
  quota := ok.quota
  causes := ok.causes
  steering := by
    obtain ⟨low, high, slow, fast⟩ := ok.steering
    exact ⟨low, high, slew_ticked s.tbu adv slow fast⟩

theorem Rights.tickFlagged {s : State} (ok : Rights s) (no_limit : limitDue s = false) (adv : Nat) :
    Rights (tickFlagged (ticked s.tbu adv) s) := by
  have ticked := ok.tick no_limit adv
  rw [tickFlagged_eq]
  refine Rights.handValidityChange ?_ _
  split
  · exact ticked.handFlagToAll (f := .timeAdjusted) (by simp)
  · exact ticked

theorem inOrder_oscillatorTick {s : State} (ok : InOrder s) (no_limit : limitDue s = false) : InOrder (oscillatorTick s) := by
  obtain ⟨sound, dues, waits⟩ := (inOrder_iff s).mp ok
  obtain ⟨adv, -, -, tick⟩ := oscillatorTick_eq s
  have flagged : Sound none (tickFlagged (ticked s.tbu adv) s) :=
    sound.of_flags (sound.tidy.tickFlagged no_limit rfl) (sound.rights.tickFlagged no_limit adv) (by simp) (by simp)
      (by simp) (by simp) (by simp) (by simp) (by simp)
  rw [tick]
  split
  · next same =>
    exact ok.of_leaves flagged (.of_store (by simp) (by simpa using same))
  · obtain ⟨-, -, -, -, -, -, -, state, held, -⟩ := takeTimelineValue_work (tickFlagged (ticked s.tbu adv) s)
    exact (inOrder_iff _).mpr ⟨flagged.takeTimelineValue, noDueLeftBehind_takeTimelineValue flagged.tidy,
      heldWaits_congr waits (by rw [state]; simp) (by rw [held]; simp)⟩

/-! ### The crystal (R1, R14, R15) -/

/-- A change of the TBU that keeps the counts, the timeline, the trim and the slew keeps a part in order. -/
theorem inOrder_withTbu {s : State} (ok : InOrder s) {x : Tbu} (mono : x.mono = s.tbu.mono)
    (timeline : x.timeline = s.tbu.timeline) (trim : x.trim = s.tbu.trim) (slew : x.slew = s.tbu.slew) :
    InOrder (s.setTbu x) := by
  have sound := sound_of_inOrder ok
  refine ok.of_leaves (sound.of_flags ?_ ?_ rfl rfl rfl rfl rfl rfl rfl) (.of_store rfl timeline)
  · exact tidy_flags sound.tidy rfl rfl rfl rfl rfl mono (linesFollow_congr ok.lines rfl rfl rfl mono)
  · exact sound.rights.congr rfl rfl rfl mono (.of_store rfl) ok.causes (steeringInRange_congr ok.steering trim slew)

theorem inOrder_handValidityChange {s : State} (ok : InOrder s) (v : Validity) : InOrder (handValidityChange v s) := by
  refine ok.of_leaves ((sound_of_inOrder ok).handValidityChange v) (.of_store ?_ ?_) <;>
  · unfold handValidityChange
    split <;> simp

theorem inOrder_crystalStop {s : State} (ok : InOrder s) : InOrder (crystalStop s) := by
  unfold crystalStop
  split
  · exact inOrder_handValidityChange (inOrder_withTbu ok (by rfl) (by rfl) (by rfl) (by rfl)) _
  · exact ok

theorem inOrder_crystalTransition {s : State} (ok : InOrder s) (no_limit : limitDue s = false) (endsPeriod : Bool) :
    InOrder (crystalTransition endsPeriod s) := by
  have seen : InOrder (s.setTbu { s.tbu with monitor := .running }) := inOrder_withTbu ok rfl rfl rfl rfl
  unfold crystalTransition
  dsimp only
  split
  · split
    · exact inOrder_oscillatorTick seen no_limit
    · exact inOrder_withTbu seen rfl rfl rfl rfl
  · exact seen

/-! ### A visit of the walk (R70 to R75) -/

theorem visitSlot_count_le (w : Walk) (h : Handle) (s : State) : (visitSlot w h s).2 ≤ 1 := by
  by_cases idle : ∀ e due, slot s h = some e → e.status ≠ .armed due
  · simp [visitSlot_of_idle idle]
  · push Not at idle
    obtain ⟨e, due, at_h, armed⟩ := idle
    rw [visitSlot_count at_h armed]
    split <;> omega

/-- A walk record that keeps its port and its wanted response keeps the stage (R70, R75, R80). -/
theorem Stage.movedOn {s : State} {w w' : Walk} (ok : Stage none s) (walk : walkOf s = some w) (port : w'.port = w.port)
    (wanted : w'.wanted = w.wanted)
    (inOrder : w'.delta = (w'.newValue.toNat : Int) - (w'.oldValue.toNat : Int) ∧ w'.position ≤ 96 ∧ w'.skipped ≤ w'.position) :
    Stage none (setAgendaState (.realigning w') s) where
  ports := fun p => by
    refine (ok.ports p).congr Iff.rfl Iff.rfl (or_congr_right ?_) rfl
    have walk' : walkOf (setAgendaState (.realigning w') s) = some w' := rfl
    simp [wantsResponse, walk, walk', port, wanted]
  alone := fun _ none => by simp at none
  load := ok.load
  walk := fun x is => by
    have same : w' = x := Option.some.inj is
    rwa [← same]

theorem inOrder_walkVisit {s : State} (ok : InOrder s) : InOrder (walkVisit s) := by
  cases walk : walkOf s with
  | none =>
    have stays : walkVisit s = s := by simp [walkVisit, walk]
    rwa [stays]
  | some w =>
    by_cases hp : w.position < 96
    · obtain ⟨sound, -, waits⟩ := (inOrder_iff s).mp ok
      have few := visitSlot_count_le w ⟨w.position, hp⟩ s
      have treated : Sound none (visitSlot w ⟨w.position, hp⟩ s).1 :=
        sound.of_work (tidyWork_visitSlot w _ s) fun empty => by rw [visitSlot_of_idle (by simp [empty])]
      obtain ⟨-, -, -, -, -, -, -, state, held, -⟩ := (tidyWork_visitSlot w ⟨w.position, hp⟩ s).work
      rw [walkVisit_eq walk hp]
      generalize (visitSlot w ⟨w.position, hp⟩ s).2 = n at few ⊢
      generalize (visitSlot w ⟨w.position, hp⟩ s).1 = t at treated state held ⊢
      obtain ⟨delta, -, skipped⟩ := ok.walk w walk
      have walking : walkOf t = some w := (walkOf_congr state).trans walk
      have stage := treated.stage.movedOn (w' := { w with position := w.position + 1, skipped := w.skipped + n }) walking rfl
        rfl ⟨delta, hp, (by omega : w.skipped + n ≤ w.position + 1)⟩
      refine (inOrder_iff _).mpr ⟨treated.of_ports stage rfl rfl rfl rfl rfl rfl rfl rfl rfl, fun running => ?_, fun p _ => ?_⟩
      · simp [isRunning, walkOf] at running
      · simp [walkOf]
    · have stays : walkVisit s = s := by simp [walkVisit, walk, hp]
      rwa [stays]

end Sys2Proof.Machine
end

section
/-! PROOFS. The end of the walk keeps a part in order (R78 to R83). -/

-- One proof after the other: the memory limit of the check bounds the threads of Lean.
set_option Elab.async false

namespace Sys2Proof.Machine

/-! ### The late firings and the step's response (R79, R80) -/

section EndOfWalk
variable {s : State} {w : Walk}

/-- Once the walk has ended, its port is WORKING on the step that is answered next (R80). -/
theorem Sound.walkEnded (ok : Sound none s) (walk : walkOf s = some w) :
    Sound (if w.wanted = true then some w.port else none) (setAgendaState .running s) := by
  have silent : ∀ p, ¬ wantsResponse (setAgendaState .running s) p := fun p ⟨x, is, _⟩ => by simp [walkOf] at is
  have wants : ∀ p, wantsResponse s p ↔ w.wanted = true ∧ w.port = p := fun p => by
    simp [wantsResponse, walk, and_comm]
  refine ok.of_ports ⟨fun p => ?_, fun p _ => silent p, ok.stage.load, fun x is => by simp [walkOf] at is⟩ rfl rfl rfl rfl rfl
    rfl rfl rfl rfl
  refine (ok.stage.ports p).congr Iff.rfl Iff.rfl ?_ rfl
  rw [or_iff_left (silent p), or_iff_right (by simp), wants]
  split <;> simp_all

theorem lateFirings_empty (empty : ∀ h, slot s h = none) : lateFirings w s = s := by
  have no_late : lateHandles w s = [] := by simp [lateHandles, List.filter_eq_nil_iff, firesLate, empty]
  rw [lateFirings, no_late]
  rfl

theorem Sound.afterStep (ok : Sound none s) (walk : walkOf s = some w) : Sound none (afterStep w s) := by
  have late : Sound (if w.wanted = true then some w.port else none) (afterLate w s) :=
    (ok.walkEnded walk).of_work (tidyWork_lateFirings w _) lateFirings_empty
  rw [afterStep_eq]
  cases wanted : w.wanted with
  | true =>
    rw [if_pos wanted] at late
    exact late.complete _ _
  | false => simpa [wanted] using late

end EndOfWalk

/-! ### The held commands (R81, R82) -/

section Held
variable {x : State} {p : Port}

/-- The part in which a held command is taken (R82). -/
def heldReleased (p : Port) (x : State) : State := markHeld p false (setHeld p none x)

theorem heldReleased_frame (p : Port) (x : State) :
    (heldReleased p x).tbu = x.tbu ∧ (heldReleased p x).lease = x.lease ∧ (heldReleased p x).agu.store = x.agu.store ∧
      (heldReleased p x).agu.agenda = x.agu.agenda ∧ (heldReleased p x).agu.state = x.agu.state ∧
      (heldReleased p x).agu.held = x.agu.held.set p none ∧ (heldReleased p x).queues = x.queues ∧
      (heldReleased p x).attn = x.attn ∧ (heldReleased p x).strobes = x.strobes ∧ (heldReleased p x).pru = x.pru ∧
      (heldReleased p x).spm = x.spm := by simp [heldReleased, setHeld]

theorem Sound.heldReleased {c : AgendaCommand} (ok : Sound none x) (held : x.agu.held.get p = some c) :
    Sound (some p) (heldReleased p x) := by
  obtain ⟨tbu, lease, store, agenda, -, -, queues, attn, strobes, pru, spm⟩ := heldReleased_frame p x
  exact ok.of_ports (ok.stage.release held) tbu lease store agenda queues attn strobes pru spm

theorem leavesDues_heldReleased (p : Port) (x : State) : LeavesDues x (heldReleased p x) := by
  obtain ⟨tbu, -, store, -, state, held, -⟩ := heldReleased_frame p x
  refine ⟨isRunning_congr state, by rw [tbu], fun h due at_h => .inl ?_, fun q => ?_⟩
  · rwa [dueAt, slot_congr (s := x) store, ← dueAt] at at_h
  · rw [held, PerPort.get_set]
    split
    · exact absurd rfl
    · exact id

/-- A command that leaves the AGU RUNNING holds none (R81). -/
theorem CommandEnd.places {y t : State} (done : CommandEnd p y t) (running : isRunning t = true) (q : Port) :
    t.agu.held.get q ≠ none → y.agu.held.get q ≠ none := by
  cases done with
  | completed r out z change => simpa using change.leavesDues.places q
  | reset => exact (leavesDues_portReset p y).places q
  | stepped target _ => simp [isRunning, walkOf] at running
  | held c walks =>
    rw [isRunning_congr (s := y) (by simp), walks] at running
    simp at running

/-- What is left once a place of the held-command list was taken: the part is sound, and while it is RUNNING no due entry
is left and the place is empty (R60, R82). -/
theorem takeHeld_keeps (ok : Sound none x) (dues : NoDueLeftBehind x) (p : Port) :
    Sound none (takeHeld x p) ∧ NoDueLeftBehind (takeHeld x p) ∧ (isRunning (takeHeld x p) = true →
      ∀ q, (takeHeld x p).agu.held.get q ≠ none → q ≠ p ∧ x.agu.held.get q ≠ none) := by
  cases running : isRunning x with
  | false =>
    have stays : takeHeld x p = x := by simp [takeHeld, running]
    rw [stays, running]
    exact ⟨ok, dues, fun no => by simp at no⟩
  | true =>
    cases held : x.agu.held.get p with
    | none =>
      rw [takeHeld_empty held]
      exact ⟨ok, dues, fun _ q some => ⟨fun same => some (by rw [same, held]), some⟩⟩
    | some c =>
      have leaves := leavesDues_heldReleased p x
      have done : CommandEnd p (heldReleased p x) (takeHeld x p) := by
        rw [takeHeld_some running held]
        exact .of_agendaCommand (leaves.running.trans running) c
      obtain ⟨sound, noDue, -⟩ := done.keeps (ok.heldReleased held)
      refine ⟨sound, noDue (leaves.noDue dues), fun after q some => ?_⟩
      have before := done.places after q some
      refine ⟨fun same => before ?_, leaves.places q before⟩
      rw [same, (heldReleased_frame p x).2.2.2.2.2.1, PerPort.get_set_self]

theorem foldl_takeHeld_keeps (l : List Port) (ok : Sound none x) (dues : NoDueLeftBehind x) :
    Sound none (l.foldl takeHeld x) ∧ NoDueLeftBehind (l.foldl takeHeld x) ∧ (isRunning (l.foldl takeHeld x) = true →
      ∀ q, (l.foldl takeHeld x).agu.held.get q ≠ none → q ∉ l ∧ x.agu.held.get q ≠ none) := by
  induction l generalizing x with
  | nil => exact ⟨ok, dues, fun _ q some => ⟨by simp, some⟩⟩
  | cons p l ih =>
    obtain ⟨sound, noDue, places⟩ := takeHeld_keeps ok dues p
    obtain ⟨after, noDue', places'⟩ := ih sound noDue
    refine ⟨after, noDue', fun running q some => ?_⟩
    obtain ⟨outside, before⟩ := places' running q some
    have runs : isRunning (takeHeld x p) = true := by
      by_contra walks
      rw [Bool.not_eq_true] at walks
      rw [List.foldl_cons, foldl_takeHeld_of_walk walks, walks] at running
      simp at running
    obtain ⟨other, first⟩ := places runs q before
    exact ⟨fun inside => (List.mem_cons.mp inside).elim other outside, first⟩

end Held

theorem inOrder_endOfWalk {s : State} (ok : InOrder s) : InOrder (endOfWalk s) := by
  cases walk : walkOf s with
  | none =>
    have stays : endOfWalk s = s := by simp [endOfWalk, walk]
    rwa [stays]
  | some w =>
    by_cases finished : 96 ≤ w.position
    · have answered := (sound_of_inOrder ok).afterStep walk
      have dues := noDueLeftBehind_takeTimelineValue answered.tidy
      obtain ⟨after, noDue, places⟩ := foldl_takeHeld_keeps allPorts answered.takeTimelineValue dues
      rw [endOfWalk_eq walk finished]
      refine (inOrder_iff _).mpr ⟨after, noDue, fun q some walked => ?_⟩
      have running : isRunning (allPorts.foldl takeHeld (takeTimelineValue (afterStep w s))) = true := by
        simp [isRunning, walked]
      exact absurd (mem_allPorts q) (places running q some).1
    · have stays : endOfWalk s = s := by simp [endOfWalk, walk, finished]
      rwa [stays]

end Sys2Proof.Machine
end

section
/-! PROOFS. The rows of the supply, the reset input, power-on and the profile load keep a part in order (R159 to R163, R168,
R169, R187 to R196). -/

-- One proof after the other: the memory limit of the check bounds the threads of Lean.
set_option Elab.async false

namespace Sys2Proof.Machine

/-! ### The supply state (R187, R191) -/

section Spm
variable {s : State} {x : Spm}

/-- A change of the SPM that neither enters nor leaves MAIN, nor moves the reset input there, keeps the part sound. -/
theorem Sound.withSpm {o : Option Port} (ok : Sound o s) (supply : x.supply = .main ↔ s.spm.supply = .main)
    (reset : s.spm.supply = .main → x.resetAsserted = s.spm.resetAsserted) : Sound o (s.setSpm x) where
  tidy := ok.tidy.congr rfl rfl rfl
    (fun p => ⟨(ok.tidy.lines p).1.trans (and_congr_left' supply.symm),
      fun e pulse => ((ok.tidy.lines p).2 e pulse).imp supply.mpr id⟩)
    fun l e pulsing => (ok.tidy.strobes l e pulsing).imp supply.mpr id
  stage :=
    { ports := fun p => (ok.stage.ports p).congr supply Iff.rfl Iff.rfl rfl
      alone := ok.stage.alone
      load := by
        obtain ⟨idle, loading, waiting, held⟩ := ok.stage.load
        refine ⟨idle, fun load => supply.mpr (loading load), fun load main => waiting load (supply.mp main), fun main => ?_⟩
        have before := supply.mp main
        have same := held before
        rwa [← reset before] at same
      walk := ok.stage.walk }
  rights :=
    { profiles := ok.rights.profiles
      lease := fun l held => (ok.rights.lease l held).imp id (And.imp id supply.mpr)
      quota := ok.rights.quota
      causes := ok.rights.causes
      steering := ok.rights.steering }
  nothing := ok.nothing

theorem inOrder_withSpm (ok : InOrder s) (supply : x.supply = .main ↔ s.spm.supply = .main)
    (reset : s.spm.supply = .main → x.resetAsserted = s.spm.resetAsserted) : InOrder (s.setSpm x) :=
  ok.of_leaves ((sound_of_inOrder ok).withSpm supply reset) (.of_store rfl rfl)

theorem inOrder_handFlagToAll (ok : InOrder s) {f : Flag} (other : f ≠ .frame) : InOrder (handFlagToAll f s) := by
  have sound := sound_of_inOrder ok
  exact ok.of_leaves (sound.of_flags (sound.tidy.handFlagToAll f) (sound.rights.handFlagToAll other) (by simp) (by simp)
    (by simp) (by simp) (by simp) (by simp) (by simp)) (.of_store (by simp) (by simp))

theorem inOrder_settleStart (ok : InOrder s) : InOrder (settleStart s) := by
  unfold settleStart
  split
  · next holdover => exact inOrder_withSpm ok (by simp [holdover]) fun _ => rfl
  · exact ok

theorem inOrder_settleAbort (ok : InOrder s) : InOrder (settleAbort s) := by
  unfold settleAbort
  split
  · next settling => exact inOrder_withSpm ok (by simp [settling]) fun _ => rfl
  · exact ok

theorem inOrder_backupLow (ok : InOrder s) : InOrder (backupLow s) := by
  unfold backupLow
  split
  · have recorded : InOrder (s.setSpm { s.spm with backup := .low }) := inOrder_withSpm ok Iff.rfl fun _ => rfl
    exact inOrder_handFlagToAll recorded (f := .supply) (by simp)
  · exact ok

theorem inOrder_backupPresent (ok : InOrder s) : InOrder (backupPresent s) := by
  unfold backupPresent
  split
  · have recorded : InOrder (s.setSpm { s.spm with backup := .present }) := inOrder_withSpm ok Iff.rfl fun _ => rfl
    exact inOrder_handFlagToAll recorded (f := .supply) (by simp)
  · exact ok

end Spm

/-! ### The ports outside MAIN (R168, R169) -/

section Ports
variable {main ready busy : Prop} {place : Option AgendaCommand} {c : PortCtl}

/-- A port that is neither WORKING nor RECEIVING. -/
theorem PortOk.of_quiet {main' ready' busy' : Prop} {place' : Option AgendaCommand} (offline : c.state = .offline ↔ ¬ main')
    (notReady : c.state = .notReady ↔ main' ∧ ¬ ready') (free : ∀ x, c.state ≠ .working x) (silent : ¬ busy')
    (empty : place' = none) (select : c.state ≠ .offline → (c.receiver = .waiting ↔ c.select = false))
    (still : ∀ limit snap received, c.receiver ≠ .receiving limit snap received) : PortOk main' ready' busy' place' c where
  offline := offline
  notReady := notReady
  receiver := ⟨select, fun limit snap received is => absurd is (still limit snap received)⟩
  working := ⟨fun ⟨x, is, _⟩ => absurd is (free x), fun b => absurd b silent⟩
  held := ⟨fun some => absurd empty some, fun ⟨x, is, _⟩ => absurd is (free x)⟩

/-- Outside MAIN a port has no command under way, held or not (R80, R87). -/
theorem PortOk.dark (ok : PortOk main ready busy place c) (outside : ¬ main) : ¬ busy ∧ place = none :=
  ok.quiet fun x is => by simp [ok.offline.mpr outside] at is

/-- Before the load is READY a port has no command under way, held or not (R168). -/
theorem PortOk.early (ok : PortOk main ready busy place c) (is_main : main) (unloaded : ¬ ready) :
    c.state = .notReady ∧ ¬ busy ∧ place = none := by
  have state := ok.notReady.mpr ⟨is_main, unloaded⟩
  exact ⟨state, ok.quiet fun x is => by simp [state] at is⟩

end Ports

theorem discarding_or_waiting (select : Bool) :
    ((if select then Receiver.discarding else .waiting) = .waiting ↔ select = false) ∧
      ∀ limit snap received, (if select then Receiver.discarding else .waiting) ≠ .receiving limit snap received := by
  cases select <;> simp

/-! ### Holdover entry (R188) -/

section Holdover
variable {s : State}

theorem stage_droppedSupply (ok : InOrder s) : Stage none (droppedSupply s) := by
  obtain ⟨-, -, agu, -, -, -, pru, ports, spm, -⟩ := droppedSupply_frame s
  obtain ⟨-, -, -, -, -, -, -, -, -, -, -, -, held, walk⟩ := droppedCommands_frame s
  have walking : walkOf (droppedSupply s) = (walkOf s).map (unwanted none) :=
    (walkOf_congr (by rw [agu])).trans walk
  have silent : ∀ p, ¬ wantsResponse (droppedSupply s) p := fun p ⟨w, is, _, wanted⟩ => by
    rw [walking] at is
    obtain ⟨v, -, rfl⟩ := Option.map_eq_some_iff.mp is
    simp [unwanted] at wanted
  refine ⟨fun p => ?_, fun _ none => by simp at none, ?_, fun w is => ?_⟩
  · rw [spm, pru, ports, agu, held, get_const, PerPort.get_map]
    obtain ⟨select, still⟩ := discarding_or_waiting (s.ports.get p).select
    exact .of_quiet (by simp [holdoverPort]) (by simp [holdoverPort]) (by simp [holdoverPort])
      (by simpa using silent p) rfl (fun _ => select) still
  · unfold LoadFollowsSupply
    rw [spm, pru, holdoverPru_eq]
    cases s.pru.load <;> simp
  · rw [walking] at is
    obtain ⟨v, before, rfl⟩ := Option.map_eq_some_iff.mp is
    obtain ⟨delta, position, skipped⟩ := ok.walk v before
    unfold unwanted
    split <;> exact ⟨delta, position, skipped⟩

theorem tidy_droppedSupply (ok : InOrder s) : Tidy (droppedSupply s) := by
  obtain ⟨-, -, agu, queues, attn, strobes, -, -, spm, -⟩ := droppedSupply_frame s
  obtain ⟨-, -, -, -, -, -, -, -, -, -, store, agenda, -⟩ := droppedCommands_frame s
  refine (tidy_of_inOrder ok).congr (by rw [agu, store]) (by rw [agu, agenda]) queues (fun p => ?_) fun l e pulsing => ?_
  · rw [attn, spm, PerPort.get_map]
    simp [releasedLine]
  · rw [strobes] at pulsing
    cases l <;> simp [PerLine.get, PerLine.const] at pulsing

theorem leavesDues_droppedSupply (s : State) : LeavesDues s (droppedSupply s) := by
  obtain ⟨tbu, -, agu, -⟩ := droppedSupply_frame s
  obtain ⟨-, -, -, -, -, -, -, -, -, -, store, -, held, walk⟩ := droppedCommands_frame s
  refine ⟨?_, by rw [tbu], fun h due at_h => .inl ?_, fun p some => ?_⟩
  · rw [isRunning_congr (s := droppedCommands s) (by rw [agu]), isRunning, walk, Option.isNone_map]
    rfl
  · rwa [dueAt, slot_congr (s := s) (by rw [agu, store]), ← dueAt] at at_h
  · rw [agu, held, get_const] at some
    exact absurd rfl some

theorem inOrder_holdoverEntry (ok : InOrder s) : InOrder (holdoverEntry s) := by
  by_cases main : s.spm.supply = .main
  · obtain ⟨tbu, -, agu, queues, attn, strobes, pru, -⟩ := droppedSupply_frame s
    obtain ⟨-, -, -, -, -, -, -, -, -, -, store, -⟩ := droppedCommands_frame s
    have slots : ∀ h, slot (droppedSupply s) h = slot s h := slot_congr (by rw [agu, store])
    have profiles : (droppedSupply s).pru.profiles = s.pru.profiles := by rw [pru]; rfl
    have causes : CauseFollowsFrame (droppedSupply s) := fun p => by
      rw [frameFlag, attn, PerPort.get_map]
      exact ok.causes p
    have rights : Rights (loseLease (droppedSupply s)) :=
      .of_loseLease (profilesInOrder_congr ok.profiles profiles) (quotaKept_congr ok.quota profiles (.of_slots slots)) causes
        (steeringInRange_congr ok.steering (by rw [tbu]) (by rw [tbu]))
    have nothing : NothingBeforeLoad (loseLease (droppedSupply s)) := by
      unfold NothingBeforeLoad
      simp only [loseLease_frame]
      intro early
      have before : s.pru.load ≠ .ready := fun ready => early (by rw [pru, holdoverPru_eq, ready]; rfl)
      obtain ⟨none, silent, -, -⟩ := ok.nothing before
      exact ⟨fun h => ((slot_congr (by simp) h).trans (slots h)).trans (none h), fun p => by rw [queues]; exact silent p,
        fun l => by rw [strobes]; cases l <;> rfl, trivial⟩
    rw [holdoverEntry_main main]
    refine ok.of_leaves ⟨(tidy_droppedSupply ok).loseLease, (stage_droppedSupply ok).congr ?_, rights, nothing⟩ ?_
    · exact ⟨by simp, by simp, by simp, by simp, by simp, by simp⟩
    · have leaves := leavesDues_droppedSupply s
      exact ⟨(isRunning_congr (by simp)).trans leaves.running, by simp, fun h due at_h => leaves.dues h due (by
        rwa [dueAt, slot_congr (s := droppedSupply s) (by simp), ← dueAt] at at_h), fun p => by
        rw [(loseLease_frame (droppedSupply s)).2.2.1]
        exact leaves.places p⟩
  · have stays : holdoverEntry s = s := by rw [holdoverEntry, if_neg (by rw [inMain_iff]; exact main)]
    rwa [stays]

end Holdover

end Sys2Proof.Machine
end

section
/-! PROOFS. Resume, the system reset, power-on and the profile load keep a part in order (R159 to R163, R168, R169, R189,
R193 to R196). -/

-- One proof after the other: the memory limit of the check bounds the threads of Lean.
set_option Elab.async false

namespace Sys2Proof.Machine

/-! ### Resume (R189) -/

section Resume
variable {s : State}

theorem resumed_lines (s : State) : LinesFollow (resumed s) := fun p => by
  obtain ⟨-, -, -, mode, line, pulse⟩ := resumed_attn s p
  obtain ⟨tbu, -, -, -, -, -, -, spm, -⟩ := resumed_frame s
  refine ⟨?_, fun e at_e => ?_⟩
  · rw [line, spm, pulse]
    cases is : ((resumed s).attn.get p).mode <;> simp
  · rw [pulse] at at_e
    split_ifs at at_e with both
    cases at_e
    rw [spm, tbu]
    exact ⟨rfl, both.1, both.2, (pulse_remaining s.tbu.mono).le⟩

theorem resumed_causes (ok : CauseFollowsFrame s) : CauseFollowsFrame (resumed s) := fun p => by
  obtain ⟨flags, cause, -⟩ := resumed_attn s p
  exact CauseOk.congr (causeOk_withFlag (ok p) (f := .resumed) (by simp)) flags cause

/-- In SETTLING the load is READY with the controller IDLE, or waits for the supply (R159). -/
theorem load_outside {s : State} (ok : LoadFollowsSupply s) (outside : s.spm.supply ≠ .main) :
    s.pru.twoWire = .idle ∧ (s.pru.load = .ready ∨ s.pru.load = .waitingSupply) := by
  obtain ⟨idle, loading, -, -⟩ := ok
  have other : s.pru.load ≠ .loading := fun load => outside (loading load)
  refine ⟨idle.mpr other, ?_⟩
  cases load : s.pru.load <;> simp_all

theorem load_resumeEvent (ok : LoadFollowsSupply s) (outside : s.spm.supply ≠ .main) (released : s.spm.resetAsserted = false) :
    LoadFollowsSupply (resumeEvent s) := by
  obtain ⟨idle, ready | waiting⟩ := load_outside ok outside
  · rw [resumeEvent_eq, if_neg (by simp [ready])]
    simp [LoadFollowsSupply, idle, ready, released]
  · rw [resumeEvent_eq, if_pos waiting]
    rcases beginRead_twoWire (resumed s) with phase | phase <;>
      simp [LoadFollowsSupply, phase, released]

theorem ready_resumeEvent (s : State) : (resumeEvent s).pru.load = .ready ↔ s.pru.load = .ready := by
  rw [resumeEvent_eq]
  split
  · next waiting => simp [waiting]
  · simp

theorem tables_resumeEvent (s : State) :
    (resumeEvent s).pru.profiles = s.pru.profiles ∧ (resumeEvent s).pru.strobeMap = s.pru.strobeMap := by
  rw [resumeEvent_eq]
  split <;> simp

theorem stage_resumeEvent (ok : InOrder s) (outside : s.spm.supply ≠ .main) (released : s.spm.resetAsserted = false) :
    Stage none (resumeEvent s) := by
  obtain ⟨-, -, agu, -, -, -, ports, spm, -⟩ := resumeEvent_frame s
  have stage := stage_of_inOrder ok
  refine ⟨fun p => ?_, fun _ none => by simp at none, load_resumeEvent ok.load outside released,
    walkInOrder_congr ok.walk (by rw [agu])⟩
  obtain ⟨silent, empty⟩ := (stage.ports p).dark outside
  obtain ⟨select, still⟩ := discarding_or_waiting (s.ports.get p).select
  rw [spm, ports, agu, PerPort.get_map, wantsResponse_congr (s := s) (by rw [agu]), ready_resumeEvent]
  refine .of_quiet ?_ ?_ ?_ silent empty (fun _ => select) still <;>
    by_cases ready : s.pru.load = .ready <;> simp [resumePort, ready, released]

/-- Resume without the reset input keeps a part in order (R138, R169, R189). -/
theorem inOrder_resumeEvent (ok : InOrder s) (outside : s.spm.supply ≠ .main) (released : s.spm.resetAsserted = false) :
    InOrder (resumeEvent s) := by
  obtain ⟨tbu, lease, agu, queues, attn, strobes, -, spm, -⟩ := resumeEvent_frame s
  obtain ⟨profiles, map⟩ := tables_resumeEvent s
  have no_lease : s.lease = none := by
    cases held : s.lease with
    | none => rfl
    | some l => exact absurd (ok.lease l held).2.2 outside
  have lines : LinesFollow (resumeEvent s) := by
    obtain ⟨tbu', -, -, queues', -, -, -, spm', -⟩ := resumed_frame s
    exact linesFollow_congr (resumed_lines s) attn (by rw [queues, queues']) (by rw [spm, spm']) (by rw [tbu, tbu'])
  have dark : StrobesInOrder (resumeEvent s) := fun l e pulsing => by
    rw [strobes] at pulsing
    exact absurd (ok.strobes l e pulsing).1 outside
  refine ok.of_leaves ⟨(tidy_of_inOrder ok).congr (by rw [agu]) (by rw [agu]) queues lines dark,
    stage_resumeEvent ok outside released, ?_, ?_⟩ (.of_store agu (by rw [tbu]))
  · exact ⟨profilesInOrder_congr ok.profiles profiles, fun l held => by simp [no_lease] at held,
      quotaKept_congr ok.quota profiles (.of_store (by rw [agu])),
      fun p => CauseOk.congr (resumed_causes ok.causes p) (by rw [attn]) (by rw [attn]),
      steeringInRange_congr ok.steering (by rw [tbu]) (by rw [tbu])⟩
  · intro early
    obtain ⟨slots, silent, idle, -⟩ := ok.nothing fun ready => early ((ready_resumeEvent s).mpr ready)
    exact ⟨fun h => (slot_congr (by rw [agu]) h).trans (slots h), fun p => by rw [queues]; exact silent p,
      fun l => by rw [strobes]; exact idle l, by rw [lease, no_lease]⟩

end Resume

/-! ### The system reset (R195) -/

/-- A system reset in MAIN with the reset input asserted leaves a part in order (R195, R196). -/
theorem inOrder_systemReset {s : State} (main : s.spm.supply = .main) (asserted : s.spm.resetAsserted = true)
    (receivers : ∀ p, (s.ports.get p).receiver = .waiting ↔ (s.ports.get p).select = false)
    (trim : -maxTrim ≤ s.tbu.trim ∧ s.tbu.trim ≤ maxTrim) : InOrder (systemReset s) := by
  have port : ∀ p, (systemReset s).ports.get p = systemResetPort (s.ports.get p) := fun p => PerPort.get_map ..
  refine (systemReset_blank s).inOrder (fun p => ?_) (fun p => ⟨fun _ => ?_, fun limit snap received is => ?_⟩) ?_
    (profilesInOrder_defaults rfl) (fun p c => ?_) (linesFollow_defaults rfl)
    (causeFollowsFrame_defaults rfl (by decide)) ?_
  · rw [port]
    simp [systemResetPort, systemReset, main]
  · have before := receivers p
    rw [port]
    simp only [systemResetPort]
    cases receiver : (s.ports.get p).receiver <;> simp_all
  · rw [port] at is
    simp only [systemResetPort] at is
    cases receiver : (s.ports.get p).receiver <;> simp [receiver] at is
  · simp [LoadFollowsSupply, systemReset, main, asserted]
  · rw [port]
    simp [systemResetPort]
  · obtain ⟨low, high⟩ := trim
    exact ⟨low, high, (by decide : -maxSlew ≤ 0), (by decide : (0 : Int) ≤ maxSlew)⟩

theorem inOrder_resume {s : State} (ok : InOrder s) : InOrder (resume s) := by
  by_cases due : settleDue s = true
  · have outside : s.spm.supply ≠ .main := fun main => by simp [settleDue, main] at due
    rw [resume, if_pos due]
    obtain ⟨low, high, -, -⟩ := ok.steering
    split
    · next asserted =>
      refine inOrder_systemReset (by simp) (by simpa using asserted) (fun p => ?_) (by simpa using ⟨low, high⟩)
      simp only [resumeEvent_frame, PerPort.get_map]
      exact (discarding_or_waiting (s.ports.get p).select).1
    · next released => exact inOrder_resumeEvent ok outside (by simpa using released)
  · rwa [resume_of_not_due (by simpa using due)]

/-! ### Power-on (R193) -/

theorem inOrder_poweredOn {l : PowerLevels} (s : State) (no_reset : l.vddHigh = true → l.resetLow = false) :
    InOrder (poweredOn l s) := by
  obtain ⟨tbu, -, -, -, attn, -, ports, spm, -, profiles, -⟩ := poweredOn_frame l s
  obtain ⟨read, waits⟩ := poweredOn_load l s
  have port : ∀ p, (poweredOn l s).ports.get p = ⟨l.select.get p, if l.vddHigh then .notReady else .offline,
      if l.select.get p then .discarding else .waiting, []⟩ := fun p => by rw [ports, PerPort.get_map]
  refine (poweredOn_blank l s).inOrder (fun p => ?_) (fun p => ?_) ?_ (profilesInOrder_defaults profiles) (fun p c => ?_)
    (linesFollow_defaults attn) (causeFollowsFrame_defaults attn (by decide)) ?_
  · rw [port, spm]
    cases vdd : l.vddHigh with
    | true => simp [(read vdd).1]
    | false => simp
  · obtain ⟨select, still⟩ := discarding_or_waiting (l.select.get p)
    rw [port]
    exact ⟨fun _ => select, fun limit snap received is => absurd is (still limit snap received)⟩
  · unfold LoadFollowsSupply
    rw [spm]
    cases vdd : l.vddHigh with
    | true =>
      obtain ⟨load, phase⟩ := read vdd
      rcases phase with phase | phase <;> simp [load, phase, no_reset vdd]
    | false =>
      obtain ⟨load, idle⟩ := waits vdd
      simp [load, idle]
  · rw [port]
    cases l.vddHigh <;> simp
  · rw [SteeringInRange, tbu]
    decide

theorem inOrder_powerOn (l : PowerLevels) (s : State) : InOrder (powerOn l s) := by
  rw [powerOn_eq]
  split
  · next both =>
    obtain ⟨high, low⟩ := both
    obtain ⟨tbu, -, -, -, -, -, ports, spm, -⟩ := poweredOn_frame l s
    refine inOrder_systemReset (by rw [spm, high]; rfl) (by rw [spm, low]) (fun p => ?_) (by rw [tbu]; decide)
    rw [ports, PerPort.get_map]
    exact (discarding_or_waiting (l.select.get p)).1
  · next other =>
    exact inOrder_poweredOn s fun high => by
      cases low : l.resetLow with
      | false => rfl
      | true => exact absurd ⟨high, low⟩ other

/-! ### The reset input (R194, R196) -/

/-- Another phase of a load that runs keeps a part in order, and so does the release of the reset input with it (R159, R160,
R196). -/
theorem inOrder_readPhase {s : State} (ok : InOrder s) {x : Pru} {y : Spm} (loading : s.pru.load = .loading)
    (profiles : x.profiles = s.pru.profiles) (load : x.load = .loading)
    (phase : x.twoWire = .recovering ∨ x.twoWire = .reading) (supply : y.supply = s.spm.supply)
    (released : y.resetAsserted = false) (draws : Nat) : InOrder { s with pru := x, spm := y, draws := draws } := by
  have main := ok.load.2.1 loading
  have unloaded : s.pru.load ≠ .ready := by simp [loading]
  obtain ⟨slots, silent, idle, no_lease⟩ := ok.nothing unloaded
  have stage := stage_of_inOrder ok
  have rights := (sound_of_inOrder ok).rights
  refine ok.of_leaves ⟨?_, ⟨fun p => ?_, stage.alone, ?_, stage.walk⟩, ?_, fun _ => ⟨slots, silent, idle, no_lease⟩⟩
    (.of_store rfl rfl)
  · refine (tidy_of_inOrder ok).congr rfl rfl rfl (fun p => ?_) fun l e pulsing => ?_
    · exact ⟨(ok.lines p).1.trans (and_congr_left' (by rw [supply])), fun e pulse => ((ok.lines p).2 e pulse).imp supply.trans id⟩
    · exact absurd pulsing (by simp [idle])
  · exact (stage.ports p).congr (by rw [supply]) (by simp [load, loading]) Iff.rfl rfl
  · rcases phase with phase | phase <;> simp [LoadFollowsSupply, load, phase, main, supply, released]
  · exact ⟨profilesInOrder_congr ok.profiles profiles, fun l held => absurd held (by simp [no_lease]),
      quotaKept_congr ok.quota profiles (.of_store rfl), ok.causes, ok.steering⟩

theorem inOrder_sysrstnAssertion {s : State} (ok : InOrder s) : InOrder (sysrstnAssertion s) := by
  cases reset : s.spm.resetAsserted with
  | true => rwa [sysrstnAssertion_of_asserted reset]
  | false =>
    by_cases main : s.spm.supply = .main
    · rw [sysrstnAssertion_main reset main]
      obtain ⟨low, high, -, -⟩ := ok.steering
      exact inOrder_systemReset main rfl
        (fun p => (ok.receivers p).1 (((stage_of_inOrder ok).ports p).not_offline main)) ⟨low, high⟩
    · rw [sysrstnAssertion_outside reset main]
      exact inOrder_withSpm ok Iff.rfl fun is => absurd is main

theorem inOrder_sysrstnRelease {s : State} (ok : InOrder s) : InOrder (sysrstnRelease s) := by
  cases reset : s.spm.resetAsserted with
  | false => rwa [sysrstnRelease_of_released reset]
  | true =>
    by_cases main : s.spm.supply = .main
    · have held := (ok.load.2.2.2 main).mp reset
      have loading : s.pru.load = .loading := not_not.mp fun other => by
        have idle := ok.load.1.mpr other
        simp [held] at idle
      rw [sysrstnRelease_held reset main held]
      exact inOrder_readPhase (x := (beginRead (withResetInput false s)).pru) (y := { s.spm with resetAsserted := false }) ok
        loading rfl rfl (beginRead_twoWire _) rfl rfl (s.draws + 1)
    · rw [sysrstnRelease_other reset (.inl main)]
      exact inOrder_withSpm ok Iff.rfl fun is => absurd is main

/-! ### The profile load (R160 to R163, R168) -/

/-- Tables whose records lie in range and one of which carries ADMIN (R147, R149, R162). -/
def TablesOk (t : PerPort Profile) : Prop := (∀ p, profileInRange (t.get p) = true) ∧ ∃ p, (t.get p).admin = true

theorem tablesOk_default : TablesOk defaultProfiles := ⟨fun p => by cases p <;> decide, .a, rfl⟩

theorem profileInRange_of_profileTableAt {bytes : List Byte} {i : Nat} {t : PerPort Profile}
    (table : profileTableAt bytes i = some t) (p : Port) : profileInRange (t.get p) = true := by
  unfold profileTableAt at table
  split at table
  · next a b c d at_a at_b at_c at_d =>
    cases table
    cases p
    · exact profileInRange_of_profileAt at_a
    · exact profileInRange_of_profileAt at_b
    · exact profileInRange_of_profileAt at_c
    · exact profileInRange_of_profileAt at_d
  · simp at table

theorem tablesOk_of_judgeImage {bytes : List Byte} {t : PerPort Profile} {m : PerLine StrobeRecord}
    (judged : judgeImage bytes = some (t, m)) : TablesOk t := by
  unfold judgeImage at judged
  split_ifs at judged
  cases table : profileTableAt bytes 3 with
  | none => simp [table] at judged
  | some u =>
    cases map : strobeMapAt bytes 27 with
    | none => simp [table, map] at judged
    | some n =>
      simp only [table, map, Option.ite_none_right_eq_some, Option.some.injEq, Prod.mk.injEq] at judged
      obtain ⟨admin, rfl, -⟩ := judged
      exact ⟨profileInRange_of_profileTableAt table, (someAdmin_iff u).mp admin⟩

theorem tablesOk_loadOutcome (bytes : List Byte) : TablesOk (loadOutcome bytes).1 := by
  unfold loadOutcome
  split
  · next t m judged => exact tablesOk_of_judgeImage judged
  · exact tablesOk_default

/-- The end of a read installs tables in order, and every port is IDLE (R163, R168). -/
theorem inOrder_completeLoad {s : State} (ok : InOrder s) (loading : s.pru.load = .loading)
    (running : s.pru.twoWire ≠ .held) {outcome : PerPort Profile × PerLine StrobeRecord × ProfileSource}
    (tables : TablesOk outcome.1) (bus : List BusItem) : InOrder (completeLoad outcome bus s) := by
  have main := ok.load.2.1 loading
  have released : s.spm.resetAsserted = false := by
    have held := ok.load.2.2.2 main
    cases reset : s.spm.resetAsserted with
    | false => rfl
    | true => exact absurd (held.mp reset) running
  have unloaded : s.pru.load ≠ .ready := by simp [loading]
  obtain ⟨slots, silent, idle, no_lease⟩ := ok.nothing unloaded
  have stage := stage_of_inOrder ok
  refine ok.of_leaves ⟨?_, ⟨fun p => ?_, stage.alone, ?_, stage.walk⟩, ?_, nothing_of_ready rfl⟩ (.of_store rfl rfl)
  · refine (tidy_of_inOrder ok).congr rfl rfl rfl (linesFollow_congr ok.lines rfl rfl rfl rfl) fun l e pulsing => ?_
    exact absurd pulsing (by simp [completeLoad, idle])
  · obtain ⟨state, quiet, empty⟩ := (stage.ports p).early main unloaded
    have here : (completeLoad outcome bus s).ports.get p = { s.ports.get p with state := .idle } := by
      rw [completeLoad, PerPort.get_map, readyPort, state]
    have receiver := (stage.ports p).receiver
    rw [here]
    refine .of_active main rfl (by simp) (by simp) ⟨fun _ => receiver.1 (by simp [state]), fun limit snap received is => ?_⟩
      ?_ ?_
    · exact ⟨by simp, (receiver.2 limit snap received is).2⟩
    · exact ⟨fun ⟨x, is, _⟩ => by simp at is, fun b => absurd b quiet⟩
    · exact ⟨fun some => absurd empty some, fun ⟨x, is, _⟩ => by simp at is⟩
  · simp [LoadFollowsSupply, completeLoad, main, released]
  · refine ⟨tables, fun l held => absurd held (by simp [completeLoad, no_lease]), fun p => ?_, ok.causes, ok.steering⟩
    have none : ownedCount (completeLoad outcome bus s) p = 0 := by
      have free : ∀ h, slot (completeLoad outcome bus s) h = none := slots
      simp [ownedCount, List.countP_eq_zero, ownedBy, free]
    omega

theorem inOrder_profileLoadComplete {s : State} (ok : InOrder s) (x : ReadTransfer) : InOrder (profileLoadComplete x s) := by
  unfold profileLoadComplete
  split
  · next runs =>
    obtain ⟨loading, phase⟩ : s.pru.load = .loading ∧ (s.pru.twoWire = .recovering ∨ s.pru.twoWire = .reading) := by
      simpa [readRuns] using runs
    have running : s.pru.twoWire ≠ .held := by rcases phase with phase | phase <;> simp [phase]
    dsimp only
    split
    · exact inOrder_completeLoad ok loading running tablesOk_default _
    · exact inOrder_completeLoad ok loading running (tablesOk_loadOutcome _) _
    · split
      · have main := ok.load.2.1 loading
        have released : s.spm.resetAsserted = false := by
          by_contra asserted
          exact running ((ok.load.2.2.2 main).mp (by simpa using asserted))
        exact inOrder_readPhase (x := { s.pru with
          twoWire := .reading
          bus := s.pru.bus ++ recoveryItems s.pru.twoWire x }) ok loading rfl loading (.inr rfl) rfl released s.draws
      · exact ok
  · exact ok

end Sys2Proof.Machine
end

section
/-! PROOFS. Every step of a part in order leaves it in order: the seven statements (R2, R40, R48, R59, R60, R88, R96, R112,
R129, R149, R167). -/

-- One proof after the other: the memory limit of the check bounds the threads of Lean.
set_option Elab.async false

namespace Sys2Proof.Machine

/-! ### Every row -/

theorem inOrder_limitsBeforeResume {s : State} (ok : InOrder s) : InOrder (limitsBeforeResume s) := by
  have leased := inOrder_leaseExpiry ok
  have framed := foldl_keeps (P := InOrder) _ allPorts _ (fun t p h => inOrder_frameTimeout (s := t) h p) leased
  have pulsed := foldl_keeps (P := InOrder) _ allPorts _ (fun t p h => inOrder_attnPulseEnd (s := t) h p) framed
  exact foldl_keeps (P := InOrder) _ allLines _ (fun t l h => inOrder_strobePulseEnd (s := t) h l) pulsed

theorem inOrder_takeDueLimits {s : State} (ok : InOrder s) : InOrder (takeDueLimits s) := by
  rw [takeDueLimits_eq]
  exact inOrder_resume (inOrder_limitsBeforeResume ok)

/-- Every row keeps a part in order whose limits are not due; a row that takes no limit keeps any part in order. -/
theorem inOrder_row {s : State} (ok : InOrder s) (c : Instr) (no_limit : takesNoDueLimit c = false → limitDue s = false) :
    InOrder (row c s) := by
  cases c
  case oscillatorTick => exact inOrder_oscillatorTick ok (no_limit rfl)
  case crystalStop => exact inOrder_crystalStop ok
  case crystalTransition endsPeriod => exact inOrder_crystalTransition ok (no_limit rfl) endsPeriod
  case leaseExpiry => exact inOrder_leaseExpiry ok
  case attentionPulseEnd p => exact inOrder_attnPulseEnd ok p
  case strobePulseEnd l => exact inOrder_strobePulseEnd ok l
  case frameTimeout p => exact inOrder_frameTimeout ok p
  case walkVisit => exact inOrder_walkVisit ok
  case endOfWalk => exact inOrder_endOfWalk ok
  case selectAssertion x => exact inOrder_selectAssertion ok x.port x.bytes
  case holdoverEntry => exact inOrder_holdoverEntry ok
  case settleStart => exact inOrder_settleStart ok
  case settleAbort => exact inOrder_settleAbort ok
  case resume => exact inOrder_resume ok
  case backupLow => exact inOrder_backupLow ok
  case backupPresent => exact inOrder_backupPresent ok
  case powerOn levels => exact inOrder_powerOn levels s
  case sysrstnAssertion => exact inOrder_sysrstnAssertion ok
  case sysrstnRelease => exact inOrder_sysrstnRelease ok
  case profileLoadComplete transfer => exact inOrder_profileLoadComplete ok transfer
  all_goals exact (releaseEnd_releaseSelect _ _ _ s).inOrder ok

theorem inOrder_exec {c : Instr} {s t : State} (ok : InOrder s) (runs : exec c s = .next t) : InOrder t := by
  rw [exec_eq_row] at runs
  cases runs
  refine inOrder_row ?_ c fun takes => ?_
  · split
    · exact ok
    · exact inOrder_takeDueLimits ok
  · rw [if_neg (by simp [takes])]
    exact limitDue_takeDueLimits s

/-- The queue of waiting commands is no part of the order. -/
theorem inOrder_withPending {s : State} (ok : InOrder s) (l : List Instr) : InOrder { s with pending := l } :=
  ⟨ok.ports, ok.receivers, ok.load, ok.nothing, ok.profiles, ok.lease, ok.quota, ok.agenda, ok.dues, ok.entries, ok.queues,
    ok.pendingParts, ok.references, ok.working, ok.held, ok.walk, ok.lines, ok.causes, ok.strobes, ok.steering⟩

/-! ### The statements -/

/-- Settles O59: a step is the row of the command at the front, and every row keeps the order. -/
theorem everyStepKeepsTheOrder : Obligations.EveryStepKeepsTheOrder := by
  intro s t ok steps
  cases front : s.pending with
  | nil =>
    rw [step, front] at steps
    cases steps
    exact ok
  | cons c rest =>
    rw [step, front] at steps
    exact inOrder_exec (inOrder_withPending ok rest) steps

/-- Settles O30: every row ends with a comparison of the agenda, or makes no due earlier than the timeline value. -/
theorem noDueEntryIsLeftBehind : Obligations.NoDueEntryIsLeftBehind := fun _ _ _ ok runs => (inOrder_exec ok runs).dues

/-- Settles O31 by the order of the part after the row. -/
theorem entriesStayInOrder : Obligations.EntriesStayInOrder := fun _ _ _ ok runs =>
  have after := inOrder_exec ok runs
  ⟨after.entries, after.walk, after.agenda⟩

/-- Settles O36 by the order of the part after the row. -/
theorem queuesStayInOrder : Obligations.QueuesStayInOrder := fun _ _ _ ok runs =>
  have after := inOrder_exec ok runs
  ⟨after.queues, after.pendingParts, after.references⟩

/-- Settles O47 by the order of the part after the row. -/
theorem authorityStaysInOrder : Obligations.AuthorityStaysInOrder := fun _ _ _ ok runs =>
  have after := inOrder_exec ok runs
  ⟨after.profiles, after.lease, after.quota, after.steering⟩

/-- Settles O60 by the order of the part after the row. -/
theorem portsStayInOrder : Obligations.PortsStayInOrder := fun _ _ _ ok runs =>
  have after := inOrder_exec ok runs
  ⟨after.ports, after.receivers, after.load, after.nothing, after.working, after.held⟩

theorem attnPinLow_iff (s : State) (p : Port) : attnPinLow s p = true ↔ (s.attn.get p).line = .driven := by
  simp [attnPinLow]

theorem strobePinHigh_idle {s : State} {l : Line} (idle : s.strobes.get l = .idle) :
    strobePinHigh s l = true ↔ (s.pru.strobeMap.get l).polarity = .activeLow := by
  rw [strobePinHigh, idle]
  cases (s.pru.strobeMap.get l).polarity <;> simp

theorem strobePinHigh_pulsing {s : State} {l : Line} {e : Mono} (pulsing : s.strobes.get l = .pulsing e) :
    strobePinHigh s l = true ↔ (s.pru.strobeMap.get l).polarity = .activeHigh := by
  rw [strobePinHigh, pulsing]
  cases (s.pru.strobeMap.get l).polarity <;> simp

/-- Outside MAIN every output is inactive (R138, R145). -/
theorem outputs_dark {t : State} (ok : InOrder t) (outside : t.spm.supply ≠ .main) :
    (∀ p, attnPinLow t p = false) ∧ ∀ l, strobePinHigh t l = true ↔ (t.pru.strobeMap.get l).polarity = .activeLow := by
  refine ⟨fun p => ?_, fun l => strobePinHigh_idle ?_⟩
  · rw [← Bool.not_eq_true, attnPinLow_iff]
    exact fun driven => outside ((ok.lines p).1.mp driven).1
  · cases line : t.strobes.get l with
    | idle => rfl
    | pulsing e => exact absurd (ok.strobes l e line).1 outside

/-- Settles O41: the pins show the lines, which the order of the part after the row gives. -/
theorem outputsStayInOrder : Obligations.OutputsStayInOrder := by
  refine ⟨attnPinLow_iff, fun s l => ⟨strobePinHigh_idle, fun e => strobePinHigh_pulsing⟩, fun c s t ok runs => ?_⟩
  have after := inOrder_exec ok runs
  exact ⟨after.lines, after.causes, after.strobes, outputs_dark after⟩

end Sys2Proof.Machine
end

section
/-! PROOFS. SET_PROFILE and SET_STROBE_MAP of a port with ADMIN (R120, R144, R152, R153, R155). -/

-- One proof after the other: the memory limit of the check bounds the threads of Lean.
set_option Elab.async false

namespace Sys2Proof.Machine

/-! ### Records and maps as payloads (10.7) -/

theorem profileBytes_length (r : Profile) : (profileBytes r).length = 6 := by simp [profileBytes]

/-- A SET_PROFILE payload names its port and its record (R152). -/
theorem profileAt_payload (t : Port) {r : Profile} (range : profileInRange r = true) :
    profileAt (portCode t :: profileBytes r) 1 = some r := by
  simpa using profileAt_profileBytes [portCode t] [] r range

theorem strobeMapAt_payload (m : PerLine StrobeRecord) : strobeMapAt (strobeMapBytes m) 0 = some m := by
  simpa using strobeMapAt_bytes [] [] m

/-- One undefined byte refuses a whole map (R155). -/
theorem strobeMapAt_undefined {payload : List Byte} (bad : ∃ i, i < 4 ∧ strobeRecordOf (byteAt payload i) = none) :
    strobeMapAt payload 0 = none := by
  obtain ⟨i, small, undefined⟩ := bad
  cases map : strobeMapAt payload 0 with
  | none => rfl
  | some m =>
    unfold strobeMapAt at map
    split at map
    · next a b c d at_a at_b at_c at_d =>
      interval_cases i <;> simp_all
    · simp at map

/-! ### SET_PROFILE (R152, R153) -/

section SetProfile
variable {p : Port} {x : State} {payload : List Byte} {t : Port} {r : Profile}

theorem runSetProfile_undefined (bad : portOfCode (byteAt payload 0) = none ∨ profileAt payload 1 = none) :
    runSetProfile p payload x = complete p .badValue [] x := by
  unfold runSetProfile
  split
  · next port record => simp [port, record] at bad
  · rfl

section Named
variable (range : profileInRange r = true)
include range

theorem runSetProfile_lastAdmin (last : ∀ q, ((x.pru.profiles.set t r).get q).admin = false) :
    runSetProfile p (portCode t :: profileBytes r) x = complete p .lastAdmin [] x := by
  have no_admin : someAdmin (x.pru.profiles.set t r) = false := by
    rw [← Bool.not_eq_true, someAdmin_iff]
    simp [last]
  simp only [runSetProfile, byteAt_cons_zero, portOfCode_portCode, profileAt_payload t range]
  simp [no_admin]

variable (admin : ∃ q, ((x.pru.profiles.set t r).get q).admin = true)
include admin

theorem runSetProfile_quotaBelowUse (below : r.quota.toNat < ownedCount x t) :
    runSetProfile p (portCode t :: profileBytes r) x = complete p .quotaBelowUse [] x := by
  simp only [runSetProfile, byteAt_cons_zero, portOfCode_portCode, profileAt_payload t range]
  simp [(someAdmin_iff _).mpr admin, below]

theorem runSetProfile_accepted (quota : ownedCount x t ≤ r.quota.toNat) :
    runSetProfile p (portCode t :: profileBytes r) x =
      complete p .ok (portCode t :: profileBytes (x.pru.profiles.get t)) (profileSet t r x) := by
  simp only [runSetProfile, byteAt_cons_zero, portOfCode_portCode, profileAt_payload t range]
  simp [(someAdmin_iff _).mpr admin, Nat.not_lt.mpr quota, profileSet]

end Named

theorem loseLease_of_holder {s : State} {t : Port} (holder : isHolder s t = true) :
    loseLease s = handFlag .leaseLost t { s with lease := none } := by
  cases held : s.lease with
  | none => simp [isHolder, held] at holder
  | some l =>
    have is : l.holder = t := by simpa [isHolder, held] using holder
    simp only [loseLease, held, is, State.setLease]

/-- A holder left without MAY_STEER loses the lease (R120). -/
theorem profileSet_eq (t : Port) (r : Profile) (s : State) :
    profileSet t r s =
      if isHolder s t = true ∧ r.maySteer = false then
        handFlag .leaseLost t
          { handFlag .profile t { s with pru := { s.pru with profiles := s.pru.profiles.set t r } } with lease := none }
      else handFlag .profile t { s with pru := { s.pru with profiles := s.pru.profiles.set t r } } := by
  unfold profileSet
  dsimp only
  by_cases revoked : isHolder s t = true ∧ r.maySteer = false
  · rw [if_pos revoked, if_pos (by simpa using revoked), loseLease_of_holder]
    · rfl
    · rw [isHolder_congr (s := s) (by simp)]
      exact revoked.1
  · rw [if_neg revoked, if_neg (by simpa using revoked)]
    rfl

theorem profileSet_outstanding (q : Port) (snap : Snapshot) (code seq : Byte) (command : List Byte) (held : Bool) (s : State) :
    profileSet t r (outstanding q snap code seq command held s) =
      outstanding q snap code seq command held (profileSet t r s) := by
  have holder : isHolder (outstanding q snap code seq command held s) t = isHolder s t := isHolder_congr (by simp) t
  unfold profileSet
  rw [holder]
  dsimp only
  split <;> simp [outstanding, transacted]

end SetProfile

/-! ### SET_STROBE_MAP (R144, R155) -/

section SetStrobeMap
variable {p : Port} {x : State}

theorem runSetStrobeMap_undefined {payload : List Byte}
    (bad : ∃ i, i < 4 ∧ strobeRecordOf (byteAt payload i) = none) :
    runSetStrobeMap p payload x = complete p .badValue [] x := by
  simp [runSetStrobeMap, strobeMapAt_undefined bad]

theorem runSetStrobeMap_accepted (m : PerLine StrobeRecord) :
    runSetStrobeMap p (strobeMapBytes m) x = complete p .ok (strobeMapBytes x.pru.strobeMap) (mapSet m x) := by
  simp only [runSetStrobeMap, strobeMapAt_payload]
  rfl

theorem mapSet_outstanding (m : PerLine StrobeRecord) (q : Port) (snap : Snapshot) (code seq : Byte) (command : List Byte)
    (held : Bool) (s : State) :
    mapSet m (outstanding q snap code seq command held s) = outstanding q snap code seq command held (mapSet m s) := rfl

theorem mapSet_line (m : PerLine StrobeRecord) (s : State) (l : Line) :
    (mapSet m s).strobes.get l = if m.get l = s.pru.strobeMap.get l then s.strobes.get l else .idle := by
  rw [mapSet_strobes, lineAfterMap]
  simp only [eq_comm]

end SetStrobeMap

/-- Settles O43: the checks in order, then the replaced record or map with what follows from it. -/
theorem tablesAreReplaced : Obligations.TablesAreReplaced := by
  intro p snap s seq ready admin
  have right : ∀ code payload, ((outstanding p snap code seq payload false s).pru.profiles.get p).admin = true :=
    fun code payload => by simpa using admin
  refine ⟨fun payload length bad => ?_, fun t r range => ?_, fun payload length bad => ?_, fun m => ?_⟩
  · rw [exec_setProfile ready length, withAdmin_of_admin (right _ _), runSetProfile_undefined bad, complete_outstanding]
  · have length : (portCode t :: profileBytes r).length = 7 := by simp [profileBytes_length]
    have owned : ∀ code payload, ownedCount (outstanding p snap code seq payload false s) t = ownedCount s t :=
      fun code payload => ownedCount_congr (slot_congr (by simp)) t
    rw [exec_setProfile ready length, withAdmin_of_admin (right _ _)]
    refine ⟨fun last => ?_, fun some below => ?_, fun some quota => ?_⟩
    · rw [runSetProfile_lastAdmin range (by simpa using last), complete_outstanding]
    · rw [runSetProfile_quotaBelowUse range (by simpa using some) (by rwa [owned]), complete_outstanding]
    · rw [runSetProfile_accepted range (by simpa using some) (by rwa [owned]), profileSet_outstanding,
        complete_outstanding, profileSet_eq]
      simp
  · rw [exec_setStrobeMap ready length, withAdmin_of_admin (right _ _), runSetStrobeMap_undefined bad, complete_outstanding]
  · refine ⟨(mapSet m s).strobes, ?_, mapSet_line m s, fun l other => ?_⟩
    · rw [exec_setStrobeMap ready rfl, withAdmin_of_admin (right _ _), runSetStrobeMap_accepted, mapSet_outstanding,
        complete_outstanding]
      simp only [outstanding_frame]
      rfl
    · refine strobePinHigh_idle (s := mapSet m s) ?_
      rw [mapSet_line, if_neg other]

end Sys2Proof.Machine
end

section
/-! PROOFS. The read of the profile image (R160 to R163, R168). -/

-- One proof after the other: the memory limit of the check bounds the threads of Lean.
set_option Elab.async false

namespace Sys2Proof.Machine

/-! ### The recovery (R160, step 1) -/

theorem recoveryPulses_nine_low {levels : List Bool} (low : levels.take 9 = List.replicate 9 false) :
    recoveryPulses 9 levels = List.replicate 9 false := by
  rw [← List.take_append_drop 9 levels, low]
  simp [List.replicate, recoveryPulses]

/-- The recovery of a read is over after these pulses, or was not needed (R160, step 1). -/
structure RecoveryOver (phase : TwoWire) (r : ReadTransfer) (pulses : List Bool) : Prop where
  finished : recovered phase r = true
  going : recoveryFailed phase r = false
  items : recoveryItems phase r = pulses.map .pulse

theorem recoveryOver_of {phase : TwoWire} {r : ReadTransfer} {pulses : List Bool}
    (ends : phase = .reading ∧ pulses = [] ∨
      phase = .recovering ∧ pulses <+: r.recovery ∧ (∃ n, n < 9 ∧ pulses = List.replicate n false ++ [true])) :
    RecoveryOver phase r pulses := by
  rcases ends with ⟨rfl, rfl⟩ | ⟨rfl, ⟨rest, levels⟩, k, few, rfl⟩
  · exact ⟨rfl, rfl, rfl⟩
  · have sampled : recoveryPulses 9 r.recovery = List.replicate k false ++ [true] := by
      rw [← levels, List.append_assoc]
      exact recoveryPulses_of_prefix 9 k rest few
    have mixed : List.replicate k false ++ [true] ≠ List.replicate 9 false := fun same => by
      have high : true ∈ List.replicate 9 false := by simp [← same]
      simp at high
    exact ⟨by simp [recovered, sampled], by simpa [recoveryFailed, sampled] using mixed, by simp [recoveryItems, sampled]⟩

theorem readEnd_of_recoveryOver {phase : TwoWire} {r : ReadTransfer} {pulses : List Bool} (h : RecoveryOver phase r pulses) :
    readEnd phase r =
      if refusedByMemory r then .absent
      else if !acknowledged r || r.bytes.length < 33 then .underway
      else .complete (r.bytes.take 33) := by
  simp [readEnd, h.finished, h.going]

/-! ### The bytes and their acknowledges (R160, steps 2 to 5; R161) -/

section Acks
variable {r : ReadTransfer}

theorem acks_of_take {l : List Bool} (taken : r.acks.take l.length = l) : ∃ rest, r.acks = l ++ rest :=
  ⟨r.acks.drop l.length, by
    conv_lhs => rw [← List.take_append_drop l.length r.acks, taken]⟩

/-- A byte that the memory does not acknowledge ends the read (R161). -/
theorem reading_refused {k : Nat} (small : k < 3) (refuses : r.acks.take (k + 1) = List.replicate k true ++ [false]) :
    refusedByMemory r = true ∧ readingItems r = refusedItems k := by
  obtain ⟨rest, acks⟩ := acks_of_take (l := List.replicate k true ++ [false]) (by simpa using refuses)
  simp only [refusedByMemory, readingItems, acknowledged, acks]
  interval_cases k <;> exact ⟨by simp [List.replicate], by simp [List.replicate, sendItems, bytesToSend, addressByte, refusedItems]⟩

theorem reading_acknowledged (acks : r.acks.take 3 = [true, true, true]) :
    refusedByMemory r = false ∧ acknowledged r = true ∧
      (33 ≤ r.bytes.length → readingItems r = readItems (r.bytes.take 33)) := by
  exact ⟨by simp [refusedByMemory, acks], by simp [acknowledged, acks], readingItems_complete acks⟩

theorem reading_underway {k : Nat} (small : k < 3) (acks : r.acks = List.replicate k true) :
    refusedByMemory r = false ∧ acknowledged r = false := by
  simp only [refusedByMemory, acknowledged, acks]
  interval_cases k <;> decide

end Acks

/-! ### The end of a read (R161 to R163, R168) -/

section Load
variable {s : State} {r : ReadTransfer}

theorem profileLoadComplete_idle (idle : s.pru.load ≠ .loading ∨ s.pru.twoWire = .idle ∨ s.pru.twoWire = .held) :
    profileLoadComplete r s = s := by
  have no_read : readRuns s = false := by
    rcases idle with load | phase | phase
    · simp [readRuns, load]
    · simp [readRuns, phase]
    · simp [readRuns, phase]
  rw [profileLoadComplete, no_read]
  rfl

variable (loading : s.pru.load = .loading)
include loading

theorem profileLoadComplete_stuck (phase : s.pru.twoWire = .recovering) (low : r.recovery.take 9 = List.replicate 9 false) :
    profileLoadComplete r s = completeLoad (defaultProfiles, defaultStrobeMap, .defaultAbsent)
      (s.pru.bus ++ List.replicate 9 (.pulse false)) s := by
  have sampled := recoveryPulses_nine_low low
  have fails : readEnd .recovering r = .absent := by simp [readEnd, recoveryFailed, sampled]
  have never : recovered .recovering r = false := by simp [recovered, sampled]
  have items : recoveryItems .recovering r = List.replicate 9 (.pulse false) := by simp [recoveryItems, sampled]
  simp [profileLoadComplete, readRuns, loading, phase, fails, never, items]

omit loading in
theorem profileLoadComplete_recovering (phase : s.pru.twoWire = .recovering) (few : r.recovery.length < 9)
    (low : ∀ level ∈ r.recovery, level = false) : profileLoadComplete r s = s := by
  have sampled : recoveryPulses 9 r.recovery = r.recovery := by
    rw [recoveryPulses_of_low 9 _ low, List.take_of_length_le (by omega)]
  have never : recovered .recovering r = false := by simpa [recovered, sampled] using low
  have going : recoveryFailed .recovering r = false := by
    have fewer : r.recovery ≠ List.replicate 9 false := fun same => by simp [same] at few
    simpa [recoveryFailed, sampled] using fewer
  have ends : readEnd .recovering r = .underway := by simp [readEnd, never, going]
  simp [profileLoadComplete, phase, ends, never]

variable {pulses : List Bool} (ended : RecoveryOver s.pru.twoWire r pulses)
  (runs : s.pru.twoWire = .recovering ∨ s.pru.twoWire = .reading)
include ended runs

theorem profileLoadComplete_absent (refused : refusedByMemory r = true) :
    profileLoadComplete r s = completeLoad (defaultProfiles, defaultStrobeMap, .defaultAbsent)
      (s.pru.bus ++ pulses.map .pulse ++ readingItems r) s := by
  have reads : readRuns s = true := by rcases runs with phase | phase <;> simp [readRuns, loading, phase]
  have ends := readEnd_of_recoveryOver ended
  rw [if_pos refused] at ends
  simp [profileLoadComplete, reads, ends, ended.finished, ended.items]

theorem profileLoadComplete_image (refused : refusedByMemory r = false) (acked : acknowledged r = true)
    (enough : 33 ≤ r.bytes.length) :
    profileLoadComplete r s =
      completeLoad (loadOutcome (r.bytes.take 33)) (s.pru.bus ++ pulses.map .pulse ++ readingItems r) s := by
  have reads : readRuns s = true := by rcases runs with phase | phase <;> simp [readRuns, loading, phase]
  have ends : readEnd s.pru.twoWire r = .complete (r.bytes.take 33) := by
    rw [readEnd_of_recoveryOver ended]
    simp [refused, acked, enough]
  simp [profileLoadComplete, reads, ends, ended.items]

theorem profileLoadComplete_reading (refused : refusedByMemory r = false)
    (waits : acknowledged r = false ∨ r.bytes.length < 33) :
    profileLoadComplete r s =
      { s with pru := { s.pru with twoWire := .reading, bus := s.pru.bus ++ pulses.map .pulse } } := by
  have reads : readRuns s = true := by rcases runs with phase | phase <;> simp [readRuns, loading, phase]
  have ends : readEnd s.pru.twoWire r = .underway := by
    rw [readEnd_of_recoveryOver ended]
    rcases waits with unacked | few
    · simp [refused, unacked]
    · simp [refused, few]
  simp [profileLoadComplete, reads, ends, ended.finished, ended.items]

end Load

theorem readyPort_eq (c : PortCtl) : readyPort c = if c.state = .notReady then { c with state := .idle } else c := by
  unfold readyPort
  cases state : c.state <;> simp

/-- Settles O46: the samples decide how far the read comes, and a read that ends installs its tables. -/
theorem profileLoadCompletes : Obligations.ProfileLoadCompletes := by
  intro s r no_limit
  simp only [exec_of_no_limit no_limit, row]
  refine ⟨fun idle => by rw [profileLoadComplete_idle idle], fun loading => ⟨s.ports.map readyPort, fun p => ?_,
    fun phase => ⟨fun low => ?_, fun few low => ?_⟩, fun pulses ends => ?_⟩⟩
  · rw [PerPort.get_map, readyPort_eq]
  · rw [profileLoadComplete_stuck loading phase low]
    rfl
  · rw [profileLoadComplete_recovering phase few low]
  · have ended := recoveryOver_of ends
    have runs : s.pru.twoWire = .recovering ∨ s.pru.twoWire = .reading := ends.elim (.inr ·.1) (.inl ·.1)
    refine ⟨fun k small refuses => ?_, fun acks enough => ?_, fun waits => ?_⟩
    · obtain ⟨refused, items⟩ := reading_refused small refuses
      rw [profileLoadComplete_absent loading ended runs refused, items]
      rfl
    · obtain ⟨refused, acked, items⟩ := reading_acknowledged acks
      rw [profileLoadComplete_image loading ended runs refused acked enough, items enough]
      exact ⟨fun t m judged => by rw [loadOutcome, judged]; rfl, fun judged => by rw [loadOutcome, judged]; rfl⟩
    · have going : refusedByMemory r = false ∧ (acknowledged r = false ∨ r.bytes.length < 33) := by
        rcases waits with ⟨k, small, acks⟩ | ⟨acks, few⟩
        · obtain ⟨refused, unacked⟩ := reading_underway small acks
          exact ⟨refused, .inl unacked⟩
        · exact ⟨(reading_acknowledged acks).1, .inr few⟩
      rw [profileLoadComplete_reading loading ended runs going.1 going.2]

end Sys2Proof.Machine
end

section
/-! PROOFS. The trim adjustment ticks of a run (R9). -/

-- One proof after the other: the memory limit of the check bounds the threads of Lean.
set_option Elab.async false

namespace Sys2Proof.Machine

/-! ### Places in a run -/

/-- The tick after `i` ticks of a run stands at place `i + 1`, across the wrap of the monotonic count (R2, R9). -/
theorem runPlace_in_run {start : Mono} (run : start.toNat % trimRun = 0) {i : Nat} (inside : i < trimRun) :
    runPlace (start + 1 + BitVec.ofNat 48 i) = i + 1 := by
  have size : trimRun = 1048576 := rfl
  have count : (start + 1 + BitVec.ofNat 48 i).toNat = (start.toNat + 1 + i) % 2 ^ 48 := by
    rw [BitVec.toNat_add, BitVec.toNat_add, BitVec.toNat_ofNat]
    simp [Nat.add_mod]
  have place : (start + 1 + BitVec.ofNat 48 i).toNat % trimRun = (i + 1) % trimRun := by
    rw [size] at run ⊢
    rw [count]
    omega
  rw [runPlace, place, size]
  rw [size] at inside
  split <;> omega

/-! ### The share of a run -/

/-- Between two places one after the other the whole share rises by at most 1, since the trim is no greater than the run. -/
theorem share_step {n k : Nat} (small : n ≤ trimRun) : (k + 1) * n / trimRun ≤ k * n / trimRun + 1 := by
  have pos : 0 < trimRun := by decide
  calc (k + 1) * n / trimRun ≤ (k * n + trimRun) / trimRun := Nat.div_le_div_right (by rw [Nat.succ_mul]; omega)
    _ = k * n / trimRun + 1 := Nat.add_div_right _ pos

/-- Through place `k` as many trim adjustment ticks have come as whole shares (R9). -/
theorem countP_share {n : Nat} (small : n ≤ trimRun) (k : Nat) :
    (List.range k).countP (fun i => decide (i * n / trimRun < (i + 1) * n / trimRun)) = k * n / trimRun := by
  induction k with
  | zero => simp
  | succ k ih =>
    have rises := share_step (k := k) small
    have grows : k * n / trimRun ≤ (k + 1) * n / trimRun := Nat.div_le_div_right (Nat.mul_le_mul_right n (Nat.le_succ k))
    rw [List.range_succ, List.countP_append, ih, List.countP_singleton]
    split
    · next tick =>
      have more : k * n / trimRun < (k + 1) * n / trimRun := by simpa using tick
      omega
    · next no =>
      have same : ¬ k * n / trimRun < (k + 1) * n / trimRun := by simpa using no
      omega

/-- Settles O8: the ticks of a run stand at its places, and the whole shares of the trim add up to the trim. -/
theorem trimRunHoldsTrimTicks : Obligations.TrimRunHoldsTrimTicks := by
  intro trim start range run
  have pos : 0 < trimRun := by decide
  have small : trim.natAbs ≤ trimRun := range.trans (by decide)
  refine ⟨?_, fun some => ?_⟩
  · have ticks : ∀ i ∈ List.range trimRun, isTrimTick trim (start + 1 + BitVec.ofNat 48 i) =
        decide (i * trim.natAbs / trimRun < (i + 1) * trim.natAbs / trimRun) := fun i inside => by
      rw [isTrimTick, runPlace_in_run run (List.mem_range.mp inside), Nat.add_sub_cancel]
    rw [List.countP_congr fun i inside => by rw [ticks i inside], countP_share small, Nat.mul_div_cancel_left _ pos]
  · have last : start + BitVec.ofNat 48 trimRun = start + 1 + BitVec.ofNat 48 (trimRun - 1) := by
      rw [BitVec.add_assoc]
      rfl
    have place := runPlace_in_run run (Nat.sub_lt pos Nat.one_pos)
    have nonzero : 0 < trim.natAbs := Int.natAbs_pos.mpr some
    rw [isTrimTick, last, place, decide_eq_true_eq, Nat.sub_add_cancel pos, Nat.mul_div_cancel_left _ pos]
    refine (Nat.div_lt_iff_lt_mul pos).mpr ?_
    rw [Nat.mul_comm]
    exact Nat.mul_lt_mul_of_pos_left (Nat.sub_lt pos Nat.one_pos) nonzero

end Sys2Proof.Machine
end

section
/-! PROOFS. The check byte and the judgement of a REQUEST frame (R170, R171, R199). -/

-- One proof after the other: the memory limit of the check bounds the threads of Lean.
set_option Elab.async false

namespace Sys2Proof.Machine

/-! ### The check byte (R199) -/

/-- The register before a shift, from the register after it. -/
def crcUnshift (r : Byte) : Byte := if r.getLsbD 0 then ((r ^^^ 0x07) >>> 1) ||| 0x80 else r >>> 1

theorem crcUnshift_shift : ∀ r : Byte, crcUnshift (if r.msb then (r <<< 1) ^^^ 0x07 else r <<< 1) = r := by decide +kernel

theorem crcShift_injective (n : Nat) {a b : Byte} (same : crcShift n a = crcShift n b) : a = b := by
  induction n generalizing a b with
  | zero => exact same
  | succ n ih =>
    have before := congrArg crcUnshift (ih same)
    rwa [crcUnshift_shift, crcUnshift_shift] at before

/-- The register after more bytes. -/
def crcFrom (r : Byte) (l : List Byte) : Byte := l.foldl (fun r x => crcShift 8 (r ^^^ x)) r

theorem crc8_eq (l : List Byte) : crc8 l = crcFrom 0 l := rfl

theorem crcFrom_cons (r x : Byte) (l : List Byte) : crcFrom r (x :: l) = crcFrom (crcShift 8 (r ^^^ x)) l := rfl

theorem crcFrom_append (r : Byte) (l k : List Byte) : crcFrom r (l ++ k) = crcFrom (crcFrom r l) k := List.foldl_append

theorem crcFrom_injective (l : List Byte) {a b : Byte} (same : crcFrom a l = crcFrom b l) : a = b := by
  induction l generalizing a b with
  | nil => exact same
  | cons x l ih => exact (BitVec.xor_left_inj _).mp (crcShift_injective 8 (ih same))

/-- A byte that is changed changes the register (R199). -/
theorem crcFrom_set {r x : Byte} {l : List Byte} {i : Nat} (inside : i < l.length)
    (same : crcFrom r (l.set i x) = crcFrom r l) : x = l[i] := by
  induction l generalizing r i with
  | nil => simp at inside
  | cons y l ih =>
    cases i with
    | zero => exact (BitVec.xor_right_inj _).mp (crcShift_injective 8 (crcFrom_injective l same))
    | succ i => exact ih (by simpa using inside) same

/-- The register is 0 once the check byte was taken in (R199). -/
theorem crc8_checked (l : List Byte) : crc8 (l ++ [crc8 l]) = 0 := by
  rw [crc8_eq, crcFrom_append, ← crc8_eq, crcFrom_cons, BitVec.xor_self]
  rfl

/-! ### The judgement of the bytes of a transaction (R170, R171) -/

section Judge
variable {bytes : List Byte} {bits : Fin 8}

theorem judgeFrame_eq (bytes : List Byte) (bits : Fin 8) :
    judgeFrame bytes bits = judgeReceived ⟨storedOf bytes, bytes.length⟩ bits := by rw [judgeFrame, receiveBytes_none]

theorem storedOf_cons_of_request (rest : List Byte) : storedOf (requestMarker :: rest) = requestMarker :: rest.take 52 := by
  have other : requestMarker ≠ collectMarker := by decide
  simp [storedOf, other, maxStored]

/-- A first byte that is neither marker, or none, is the error MARKER (R171). -/
theorem judgeFrame_marker (no_marker : ∀ x, bytes.head? = some x → x ≠ requestMarker ∧ x ≠ collectMarker) :
    judgeFrame bytes bits = .error .marker := by
  rw [judgeFrame_eq]
  cases bytes with
  | nil => simp [storedOf, judgeReceived]
  | cons x rest =>
    obtain ⟨no_request, no_collect⟩ := no_marker x rfl
    simp [storedOf, no_collect, maxStored, judgeReceived, no_request]

theorem judgeFrame_collect (rest : List Byte) : judgeFrame (collectMarker :: rest) bits = .collect := by
  simp [judgeFrame_eq, storedOf, judgeReceived]

/-- A REQUEST without a length byte is the error LENGTH (R171). -/
theorem judgeFrame_short {rest : List Byte} (short : rest.length < 3) :
    judgeFrame (requestMarker :: rest) bits = .error .length := by
  have other : requestMarker ≠ collectMarker := by decide
  rw [judgeFrame_eq, storedOf_cons_of_request, List.take_of_length_le (by omega)]
  unfold judgeReceived
  simp only [other, if_false, ne_eq, not_true_eq_false]
  split
  · simp at short
    omega
  · rfl

/-- A REQUEST with a length byte: its length, then its check byte (R171). -/
theorem judgeFrame_four (code seq len : Byte) (tail : List Byte) (bits : Fin 8) :
    judgeFrame (requestMarker :: code :: seq :: len :: tail) bits =
      if bits ≠ 0 ∨ maxPayload < len.toNat ∨ tail.length ≠ len.toNat + 1 then .error .length
      else if byteAt tail len.toNat = crc8 (code :: seq :: len :: tail.take len.toNat) then
        .request code seq (tail.take len.toNat)
      else .error .crc := by
  have other : requestMarker ≠ collectMarker := by decide
  rw [judgeFrame_eq, storedOf_cons_of_request]
  simp only [List.take_succ_cons, judgeReceived, other, if_false, ne_eq, not_true_eq_false, List.length_cons]
  have count : ¬ tail.length + 1 + 1 + 1 + 1 = len.toNat + 5 ↔ ¬ tail.length = len.toNat + 1 := by omega
  simp only [count]
  split
  · rfl
  · next fits =>
    obtain ⟨-, small, length⟩ : bits = 0 ∧ len.toNat ≤ 48 ∧ tail.length = len.toNat + 1 := by
      simpa [maxPayload] using fits
    rw [List.take_of_length_le (by omega : tail.length ≤ 49)]

theorem requestFrame_eq (code seq : Byte) (payload : List Byte) :
    requestFrame code seq payload =
      requestMarker :: code :: seq :: BitVec.ofNat 8 payload.length ::
        (payload ++ [crc8 (code :: seq :: BitVec.ofNat 8 payload.length :: payload)]) := rfl

/-- The bytes of a frame before its marker, its length byte and its check byte are fixed by its payload (R170). -/
theorem requestFrame_of_tail {code seq len : Byte} {tail : List Byte} (length : tail.length = len.toNat + 1)
    (check : byteAt tail len.toNat = crc8 (code :: seq :: len :: tail.take len.toNat)) :
    requestMarker :: code :: seq :: len :: tail = requestFrame code seq (tail.take len.toNat) := by
  have payload : (tail.take len.toNat).length = len.toNat := by simp [length]
  have whole : tail.take len.toNat ++ [byteAt tail len.toNat] = tail := by
    have inside : len.toNat < tail.length := by omega
    rw [byteAt, List.getD_eq_getElem _ _ inside, List.take_append_getElem inside, List.take_of_length_le (by omega)]
  rw [requestFrame_eq, payload, BitVec.ofNat_toNat, BitVec.setWidth_eq, ← check, whole]

/-- A REQUEST is judged LENGTH or CRC, or it is the frame of a command (R171). -/
theorem judgeFrame_request (rest : List Byte) (bits : Fin 8) :
    judgeFrame (requestMarker :: rest) bits = .error .length ∨ judgeFrame (requestMarker :: rest) bits = .error .crc ∨
      ∃ code seq payload, judgeFrame (requestMarker :: rest) bits = .request code seq payload ∧ bits = 0 ∧
        payload.length ≤ maxPayload ∧ requestMarker :: rest = requestFrame code seq payload := by
  match rest with
  | [] => exact .inl (judgeFrame_short (by simp))
  | [_] => exact .inl (judgeFrame_short (by simp))
  | [_, _] => exact .inl (judgeFrame_short (by simp))
  | code :: seq :: len :: tail =>
    rw [judgeFrame_four]
    split_ifs with bad check
    · exact .inl rfl
    · obtain ⟨whole, small, length⟩ : bits = 0 ∧ len.toNat ≤ maxPayload ∧ tail.length = len.toNat + 1 := by simpa using bad
      exact .inr (.inr ⟨code, seq, _, rfl, whole, by simpa [length] using small, requestFrame_of_tail length check⟩)
    · exact .inr (.inl rfl)

end Judge

/-- Settles O3: a REQUEST is judged so only where its length and its check byte give the frame of its command. -/
theorem requestFrameIsReadBack : Obligations.RequestFrameIsReadBack := by
  intro bytes bits code seq payload
  refine ⟨fun judged => ?_, fun ⟨whole, fits, frame⟩ => ?_⟩
  · have marked : ∃ rest, bytes = requestMarker :: rest := by
      by_cases no_marker : ∀ x, bytes.head? = some x → x ≠ requestMarker ∧ x ≠ collectMarker
      · simp [judgeFrame_marker no_marker] at judged
      · push Not at no_marker
        obtain ⟨x, head, marker⟩ := no_marker
        obtain ⟨rest, rfl⟩ := List.head?_eq_some_iff.mp head
        by_cases request : x = requestMarker
        · exact ⟨rest, by rw [request]⟩
        · rw [marker request, judgeFrame_collect] at judged
          simp at judged
    obtain ⟨rest, rfl⟩ := marked
    rcases judgeFrame_request rest bits with length | crc | ⟨code', seq', payload', is, whole, fits, frame⟩
    · simp [length] at judged
    · simp [crc] at judged
    · rw [is] at judged
      cases judged
      exact ⟨whole, fits, frame⟩
  · rw [whole, frame, judgeFrame_requestFrame _ _ _ fits]

/-- What follows the marker of a frame leaves the register at 0 (R170, R199). -/
theorem crc8_frame {code seq : Byte} {payload rest : List Byte} (frame : requestMarker :: rest = requestFrame code seq payload) :
    crc8 rest = 0 := by
  have covered : rest = (code :: seq :: BitVec.ofNat 8 payload.length :: payload) ++
      [crc8 (code :: seq :: BitVec.ofNat 8 payload.length :: payload)] := List.tail_eq_of_cons_eq frame
  rw [covered, crc8_checked]

/-- Settles O4: a damaged frame is no frame of a command, since its register is not 0 after the check byte. -/
theorem oneDamagedByteIsCaught : Obligations.OneDamagedByteIsCaught := by
  intro code seq payload i x fits after inside changed
  obtain ⟨j, rfl⟩ := Nat.exists_eq_add_of_le' after
  obtain ⟨rest, frame⟩ : ∃ rest, requestFrame code seq payload = requestMarker :: rest := ⟨_, rfl⟩
  simp only [frame, List.set_cons_succ, List.getElem_cons_succ] at inside changed ⊢
  rcases judgeFrame_request (rest.set j x) 0 with length | crc | ⟨code', seq', payload', -, -, -, whole⟩
  · exact .inl length
  · exact .inr crc
  · have inside : j < rest.length := by simpa using inside
    have same := (crc8_frame whole).trans (crc8_frame frame.symm).symm
    exact absurd (crcFrom_set inside same) changed

end Sys2Proof.Machine
end

section
/-! PROOFS. The transactions of a port: the assertion of select, COLLECT, and the frame errors (R165 to R176). -/

-- One proof after the other: the memory limit of the check bounds the threads of Lean.
set_option Elab.async false

namespace Sys2Proof.Machine

/-! ### The bytes shifted out (R166, R175) -/

section Shifted
variable {snap : Snapshot} {bytes : List Byte}

theorem receivedOut_of_head {marker : Byte} (head : bytes.head? = some marker) :
    shiftedOut snap bytes = (List.range bytes.length).map (outputByte snap marker) := by
  obtain ⟨rest, rfl⟩ := List.head?_eq_some_iff.mp head
  have stored : ∃ more, storedOf (marker :: rest) = marker :: more := by
    unfold storedOf
    split <;> exact ⟨_, rfl⟩
  obtain ⟨more, stored⟩ := stored
  rw [shiftedOut, receiveBytes_none, receivedOut, stored]

@[simp] theorem shiftedOut_length (snap : Snapshot) (bytes : List Byte) : (shiftedOut snap bytes).length = bytes.length := by
  cases bytes with
  | nil => rfl
  | cons x rest => simp [receivedOut_of_head (bytes := x :: rest) rfl]

theorem shiftedOut_at {marker : Byte} (head : bytes.head? = some marker) {i : Nat} (inside : i < bytes.length) :
    (shiftedOut snap bytes)[i]? = some (outputByte snap marker i) := by
  rw [receivedOut_of_head head]
  simp [inside]

end Shifted

/-! ### The snapshot (R166) -/

/-- The fields of a status byte stand at their places (10.2). -/
theorem status_fields : ∀ (code : Fin 4) (condition notice holder frame : Bool) (v : Fin 3),
    let x : Byte := (BitVec.ofNat 8 code <<< 6) ||| (if condition then 0x20 else 0x00) ||| (if notice then 0x10 else 0x00) |||
      (if holder then 0x08 else 0x00) ||| (BitVec.ofNat 8 v <<< 1) ||| (if frame then 0x01 else 0x00)
    x.toNat / 64 = code ∧ x.getLsbD 5 = condition ∧ x.getLsbD 4 = notice ∧ x.getLsbD 3 = holder ∧ x.toNat / 2 % 4 = v ∧
      x.getLsbD 0 = frame := by decide +kernel

theorem statusByte_fields (s : State) (p : Port) :
    (statusByte s p).toNat / 64 =
        (match (s.ports.get p).state with
          | .idle => 1
          | .working _ => 2
          | .done _ => 3
          | _ => 0) ∧
      (statusByte s p).getLsbD 5 = attnCondition s p ∧ (statusByte s p).getLsbD 4 = noticeSource s p ∧
      (statusByte s p).getLsbD 3 = isHolder s p ∧
      (statusByte s p).toNat / 2 % 4 = (validityCode s.tbu.validity).toNat ∧
      (statusByte s p).getLsbD 0 = frameFlag s p := by
  have code : ∃ c : Fin 4, portStateCode (s.ports.get p).state = BitVec.ofNat 8 c ∧
      (match (s.ports.get p).state with
        | .idle => 1
        | .working _ => 2
        | .done _ => 3
        | _ => 0) = c.val := by
    cases (s.ports.get p).state with
    | idle => exact ⟨1, rfl, rfl⟩
    | working c => exact ⟨2, rfl, rfl⟩
    | done r => exact ⟨3, rfl, rfl⟩
    | notReady => exact ⟨0, rfl, rfl⟩
    | offline => exact ⟨0, rfl, rfl⟩
  have validity : ∃ v : Fin 3, validityCode s.tbu.validity = BitVec.ofNat 8 v ∧ (validityCode s.tbu.validity).toNat = v := by
    cases s.tbu.validity with
    | unset => exact ⟨0, rfl, rfl⟩
    | valid => exact ⟨1, rfl, rfl⟩
    | suspect => exact ⟨2, rfl, rfl⟩
  obtain ⟨c, state, place⟩ := code
  obtain ⟨v, stands, value⟩ := validity
  rw [place, value, statusByte, state, stands]
  exact status_fields c (attnCondition s p) (noticeSource s p) (isHolder s p) (frameFlag s p) v

/-- The collect reply by the port state (R175, R199). -/
theorem collectReply_eq (st : PortState) :
    collectReply st =
      (match st with
        | .working _ => [0x01, 0x07]
        | .done r =>
          let covered := [0x02, r.code, r.seq, resultCode r.result, BitVec.ofNat 8 r.payload.length] ++ r.payload
          covered ++ [crc8 covered]
        | _ => [0x00, 0x00]) := by
  have none : crc8 [0x00] = 0x00 := by decide
  have pending : crc8 [0x01] = 0x07 := by decide
  cases st with
  | done r => rfl
  | working c => exact congrArg (fun x => [(0x01 : Byte), x]) pending
  | _ => exact congrArg (fun x => [(0x00 : Byte), x]) none

/-! ### The assertion of select (R165, R166, R169) -/

section Assertion
variable {p : Port} {bytes : List Byte} {s : State} (no_limit : limitDue s = false)
include no_limit

theorem exec_selectAssertion : exec (.selectAssertion ⟨p, bytes⟩) s = .next (selectAssertion p bytes s) :=
  exec_of_no_limit no_limit

end Assertion

theorem storedOf_collect {bytes : List Byte} (head : bytes.head? = some 0x3C) : storedOf bytes = [0x3C] := by
  obtain ⟨rest, rfl⟩ := List.head?_eq_some_iff.mp head
  simp [storedOf, collectMarker]

theorem storedOf_other {bytes : List Byte} (head : bytes.head? ≠ some 0x3C) : storedOf bytes = bytes.take 53 := by
  rw [storedOf, if_neg (by simpa [collectMarker] using head)]
  rfl

/-- Settles O48: the receiver starts with the snapshot, whose fields are the part's, and the bytes that come with the row
are received and answered. -/
theorem selectAssertionTakesTheSnapshot : Obligations.SelectAssertionTakesTheSnapshot := by
  intro p bytes s no_limit
  rw [exec_selectAssertion no_limit]
  refine ⟨fun asserted => by simp [selectAssertion, asserted], fun released waiting online => ?_, fun released offline => ?_⟩
  · have starts := selectAssertion_of_waiting released online waiting bytes
    obtain ⟨state, condition, notice, holder, validity, frame⟩ := statusByte_fields s p
    refine ⟨statusByte s p, collectReply (s.ports.get p).state, storedOf bytes, shiftedOut (snapshotOf s p) bytes,
      congrArg _ starts, storedOf_collect, storedOf_other, rfl, shiftedOut_length _ _, fun some => ?_,
      fun head i after inside => ?_, fun head i inside => ?_, state, condition, notice, holder, validity, frame,
      fun t next => ?_, collectReply_eq _⟩
    · obtain ⟨x, rest, rfl⟩ := List.exists_cons_of_ne_nil some
      rw [List.head?_eq_getElem?, shiftedOut_at rfl (by simp)]
      rfl
    · obtain ⟨j, rfl⟩ := Nat.exists_eq_succ_of_ne_zero (by omega : i ≠ 0)
      rw [shiftedOut_at head inside]
      rfl
    · rw [shiftedOut_at head inside]
      rfl
    · cases next
      rw [starts]
      simp [dataOutDriven, online]
  · rw [selectAssertion_of_offline released offline]
    refine ⟨rfl, fun t next => ?_⟩
    cases next
    simp [dataOutDriven, offline]

/-! ### The release of select (R165, R171, R173) -/

section Release
variable {p : Port} {snap : Snapshot} {s : State} {bytes : List Byte} {bits : Fin 8}

/-- A transaction that is not empty is judged at its release (R171). -/
theorem releaseSelect_judges (selected : Selected p snap s) (online : (s.ports.get p).state ≠ .offline)
    (some : bytes ≠ [] ∨ bits ≠ 0) :
    releaseSelect p bytes bits s =
      judgeTransaction p (receiveBytes noneReceived bytes) bits (transacted p snap bytes (s.ports.get p).state s) := by
  obtain ⟨select, limit, receiver⟩ := selected
  have here : isOffline (s.ports.get p) = false := by simpa [isOffline] using online
  have judged : ((receiveBytes noneReceived bytes).count == 0 && bits == 0) = false := by
    rcases some with bytes | bits
    · simp [noneReceived, bytes]
    · simp [bits]
  simp only [releaseSelect, select, receiver, here, judged, Bool.false_or, Bool.false_eq_true, if_true, if_false]
  simp [here, releasedCtl, transacted, shiftedOut, transactionOut_of_receiving select online receiver]

/-- An empty transaction is not judged (R171). -/
theorem releaseSelect_empty (selected : Selected p snap s) (online : (s.ports.get p).state ≠ .offline) :
    releaseSelect p [] 0 s = transacted p snap [] (s.ports.get p).state s := by
  obtain ⟨select, limit, receiver⟩ := selected
  have here : isOffline (s.ports.get p) = false := by simpa [isOffline] using online
  simp [releaseSelect, select, receiver, here, noneReceived, receiveBytes, releasedCtl, transacted, shiftedOut,
    transactionOut_of_receiving select online receiver]

/-- The verdict on a frame decides what its release does. -/
theorem releaseSelect_error (selected : Selected p snap s) (online : (s.ports.get p).state ≠ .offline)
    (some : bytes ≠ [] ∨ bits ≠ 0) {cause : FrameCause} (judged : judgeFrame bytes bits = .error cause) :
    releaseSelect p bytes bits s = frameErrorAt p cause (transacted p snap bytes (s.ports.get p).state s) := by
  rw [releaseSelect_judges selected online some, judgeTransaction, ← judgeFrame, judged]

theorem releaseSelect_collect (selected : Selected p snap s) (online : (s.ports.get p).state ≠ .offline)
    (after : List Byte) (bits : Fin 8) :
    releaseSelect p (collectMarker :: after) bits s =
      transacted p snap (collectMarker :: after) (s.ports.get p).state s := by
  rw [releaseSelect_judges selected online (.inl (by simp)), judgeTransaction, ← judgeFrame, judgeFrame_collect]

/-- A good frame is judged against the port state (R172). -/
theorem releaseSelect_request (selected : Selected p snap s) (online : (s.ports.get p).state ≠ .offline) (code seq : Byte)
    {payload : List Byte} (fits : payload.length ≤ maxPayload) :
    releaseSelect p (requestFrame code seq payload) 0 s =
      judgeRequest p code seq payload (transacted p snap (requestFrame code seq payload) (s.ports.get p).state s) := by
  rw [releaseSelect_judges selected online (.inl (by simp [requestFrame])), judgeTransaction, ← judgeFrame,
    judgeFrame_requestFrame _ _ _ fits]

theorem judgeRequest_busy {code seq : Byte} {payload : List Byte} {c : Command} (working : (s.ports.get p).state = .working c) :
    judgeRequest p code seq payload s = frameErrorAt p .busy s := by simp only [judgeRequest, working]

theorem judgeRequest_notReady {code seq : Byte} {payload : List Byte} (early : (s.ports.get p).state = .notReady) :
    judgeRequest p code seq payload s = frameErrorAt p .notReady s := by simp only [judgeRequest, early]

theorem transacted_state (st : PortState) : ((transacted p snap bytes st s).ports.get p).state = st := by simp [transacted]

end Release

/-- Every row that ends with the frame of a command releases select with it (R170, R177). -/
theorem exec_requestRow {p : Port} {code seq : Byte} {payload : List Byte} {x : Instr}
    (row : x ∈ requestRows p code seq payload) (s : State) :
    ∃ code', exec x s = .next (sendRequest p code' seq payload (takeDueLimits s)) := by
  rcases List.mem_cons.mp row with rfl | listed
  · exact ⟨code, rfl⟩
  · obtain ⟨c, known, rfl⟩ := List.mem_map.mp listed
    exact ⟨c.code, exec_commandRow known p seq payload s⟩

section Rows
variable {p : Port} {s : State} (no_limit : limitDue s = false)
include no_limit

theorem exec_emptyTransaction : exec (.emptyTransaction p) s = .next (releaseSelect p [] 0 s) := exec_of_no_limit no_limit

theorem exec_collect (after : List Byte) (bits : Fin 8) :
    exec (.collect p after bits) s = .next (releaseSelect p (collectMarker :: after) bits s) := exec_of_no_limit no_limit

theorem exec_frameError (bytes : List Byte) (bits : Fin 8) :
    exec (.frameError p bytes bits) s = .next (releaseSelect p bytes bits s) := exec_of_no_limit no_limit

theorem exec_unknownCommand (code seq : Byte) (payload : List Byte) :
    exec (.unknownCommand p code seq payload) s = .next (releaseSelect p (requestFrame code seq payload) 0 s) :=
  exec_of_no_limit no_limit

theorem exec_row_release {c : CommandRow} (row : c ∈ commandTable) (seq : Byte) (payload : List Byte) :
    exec (c.row p seq payload) s = .next (releaseSelect p (requestFrame c.code seq payload) 0 s) := by
  rw [exec_commandRow row, takeDueLimits_of_none no_limit, sendRequest]

end Rows

/-- Settles O49: a COLLECT is not judged beyond its marker, and neither are an empty transaction, a discarded one, and those
of an OFFLINE port. -/
theorem collectChangesNothing : Obligations.CollectChangesNothing := by
  intro p snap s no_limit
  refine ⟨fun online selected => ⟨fun after bits => ?_, ?_⟩, fun online select discarding => ?_, fun offline select => ?_⟩
  · refine ⟨shiftedOut snap (collectMarker :: after), ?_, by simp, ?_, fun i inside => ?_⟩
    · rw [exec_collect no_limit, releaseSelect_collect selected online]
      rfl
    · rw [shiftedOut_at rfl (by simp)]
      rfl
    · rw [shiftedOut_at rfl (by simpa using inside)]
      rfl
  · rw [exec_emptyTransaction no_limit, releaseSelect_empty selected online]
    rfl
  · have release := releaseSelect_of_discarding select online discarding
    rw [exec_emptyTransaction no_limit, release]
    refine ⟨by simp [State.setPort], fun bytes bits => ⟨?_, ?_, fun code seq x row => ?_⟩⟩
    · rw [exec_frameError no_limit, release]
      rfl
    · rw [exec_collect no_limit, release]
      rfl
    · obtain ⟨code', runs⟩ := exec_requestRow row s
      rw [runs, takeDueLimits_of_none no_limit, sendRequest, release, requestFrame_length]
      rfl
  · have release := releaseSelect_of_offline select offline
    rw [exec_emptyTransaction no_limit, release]
    refine ⟨rfl, fun bytes bits => ⟨?_, ?_, fun code seq x row => ?_⟩⟩
    · rw [exec_frameError no_limit, release]
      rfl
    · rw [exec_collect no_limit, release]
      rfl
    · obtain ⟨code', runs⟩ := exec_requestRow row s
      rw [runs, takeDueLimits_of_none no_limit, sendRequest, release]
      rfl

/-! ### The frame errors (R171, R172) -/

section FrameErrors
variable {bytes : List Byte} {bits : Fin 8}

/-- A REQUEST with a wrong length is the error LENGTH (R171). -/
theorem judgeFrame_length (head : bytes.head? = some requestMarker)
    (wrong : bits ≠ 0 ∨ bytes.length < 4 ∨ 48 < (byteAt bytes 3).toNat ∨ bytes.length ≠ (byteAt bytes 3).toNat + 5) :
    judgeFrame bytes bits = .error .length := by
  obtain ⟨rest, rfl⟩ := List.head?_eq_some_iff.mp head
  match rest with
  | [] => exact judgeFrame_short (by simp)
  | [_] => exact judgeFrame_short (by simp)
  | [_, _] => exact judgeFrame_short (by simp)
  | code :: seq :: len :: tail =>
    rw [judgeFrame_four, if_pos]
    have at_three : byteAt (requestMarker :: code :: seq :: len :: tail) 3 = len := rfl
    rw [at_three] at wrong
    simp only [List.length_cons] at wrong
    simp only [maxPayload]
    omega

/-- A REQUEST of its length with a wrong check byte is the error CRC (R171, R199). -/
theorem judgeFrame_crc (head : bytes.head? = some requestMarker) (whole : bits = 0) (four : 4 ≤ bytes.length)
    (small : (byteAt bytes 3).toNat ≤ 48) (length : bytes.length = (byteAt bytes 3).toNat + 5)
    (check : byteAt bytes (bytes.length - 1) ≠ crc8 ((bytes.drop 1).dropLast)) :
    judgeFrame bytes bits = .error .crc := by
  obtain ⟨rest, rfl⟩ := List.head?_eq_some_iff.mp head
  match rest with
  | [] => simp at four
  | [_] => simp at four
  | [_, _] => simp at four
  | code :: seq :: len :: tail =>
    have at_three : byteAt (requestMarker :: code :: seq :: len :: tail) 3 = len := rfl
    rw [at_three] at small length
    have rest : tail.length = len.toNat + 1 := by
      simp only [List.length_cons] at length
      omega
    have last : byteAt (requestMarker :: code :: seq :: len :: tail)
        ((requestMarker :: code :: seq :: len :: tail).length - 1) = byteAt tail len.toNat := by
      simp only [List.length_cons, rest]
      rfl
    have covered : ((requestMarker :: code :: seq :: len :: tail).drop 1).dropLast =
        code :: seq :: len :: tail.take len.toNat := by
      simp [List.dropLast_eq_take, rest]
    rw [last, covered] at check
    rw [judgeFrame_four, if_neg (by simp [whole, maxPayload, small, rest]), if_neg check]

end FrameErrors

/-- The frame limit does not depend on what was received (R173). -/
theorem limitDue_withReceived {p : Port} {s : State} {limit : Mono} {snap snap' : Snapshot} {received received' : Received}
    (receiver : (s.ports.get p).receiver = .receiving limit snap received) :
    limitDue (s.setPort p { s.ports.get p with receiver := .receiving limit snap' received' }) = limitDue s := by
  have frames : frameLimitDue (s.setPort p { s.ports.get p with receiver := .receiving limit snap' received' }) =
      frameLimitDue s := funext fun q => by
    by_cases same : q = p
    · subst same
      simp [frameLimitDue, receiver]
    · simp [frameLimitDue, same]
  rw [limitDue, frames]
  rfl

section Recorded
variable (p : Port) (s : State) (cause : FrameCause)

theorem frameErrorAt_eq_set :
    frameErrorAt p cause s = { s with attn := s.attn.set p ((frameErrorAt p cause s).attn.get p) } := by
  have same := followAttention_eq_set p (attnCondition s p)
    (s.setAttn p { s.attn.get p with flags := (s.attn.get p).flags ||| flagBit .frame, cause := cause })
  simpa [frameErrorAt, State.setAttn] using same

theorem lineAnswers_frameErrorAt : lineAnswers p s (frameErrorAt p cause s) :=
  lineAnswers_followAttention rfl rfl (by simp) (by simp)

end Recorded

/-- Settles O50: the verdict on the bytes gives the cause, whether they came before the releasing row or with it; and what
setting FRAME changes. -/
theorem frameErrorsAreRecorded : Obligations.FrameErrorsAreRecorded := by
  refine ⟨fun p s no_limit online => ⟨fun snap bytes bits selected some => ⟨fun no_marker => ?_, fun head wrong => ?_,
    fun head whole four small length check => ?_⟩, fun snap code seq payload selected fits => ⟨fun c working => ?_, fun early => ?_⟩,
    fun limit snap first stored x select marker_only rest_stored receiver is => ?_⟩, fun p s t cause is => ?_⟩
  · rw [exec_frameError no_limit, releaseSelect_error selected online some (judgeFrame_marker no_marker)]
  · rw [exec_frameError no_limit, releaseSelect_error selected online some (judgeFrame_length head wrong)]
  · rw [exec_frameError no_limit,
      releaseSelect_error selected online some (judgeFrame_crc head whole four small length check)]
  · rw [exec_frameError no_limit, releaseSelect_request selected online code seq fits,
      judgeRequest_busy ((transacted_state _).trans working), working]
  · rw [exec_frameError no_limit, releaseSelect_request selected online code seq fits,
      judgeRequest_notReady ((transacted_state _).trans early), early]
  · have received : (s.ports.get p).receiver = .receiving limit snap (receiveBytes noneReceived first) := by
      rw [receiver, receiveBytes_none]
      by_cases collect : first.head? = Option.some 0x3C
      · rw [marker_only collect, storedOf_collect collect]
      · rw [rest_stored collect, storedOf_other collect]
    have release := fun bytes bits => releaseSelect_of_received select received bytes bits online
    have fresh : s.setPort p { s.ports.get p with receiver := .receiving limit snap noneReceived } = x := is.symm
    have quiet : limitDue x = false := by
      rw [← fresh, limitDue_withReceived receiver]
      exact no_limit
    rw [fresh] at release
    refine ⟨?_, fun bytes bits => ⟨?_, ?_, fun code seq => ?_, fun seq c row => ?_⟩⟩
    · rw [exec_emptyTransaction no_limit, exec_frameError quiet, release, List.append_nil]
    · rw [exec_frameError no_limit, exec_frameError quiet, release]
    · rw [exec_collect no_limit, exec_frameError quiet, release]
      rfl
    · rw [exec_unknownCommand no_limit, exec_frameError quiet, release]
    · rw [exec_row_release no_limit row, exec_frameError quiet, release]
  · rw [is]
    refine ⟨by simp, by simp, by simp, by simp, by simp, by simp, by simp, by simp, by simp, by simp, by simp [frameErrorAt],
      by simp [frameErrorAt], by simp [frameErrorAt], by simp [frameErrorAt], lineAnswers_frameErrorAt p s cause, fun r other => ?_⟩
    rw [frameErrorAt_eq_set]
    simp [other]

end Sys2Proof.Machine
end

section
/-! PROOFS. A CREATE_ENTRY payload is read back (R30, 10.5, 10.6). -/

-- One proof after the other: the memory limit of the check bounds the threads of Lean.
set_option Elab.async false

namespace Sys2Proof.Machine

/-! ### Codes (10.5) -/

theorem kindOfCode_kindCode (k : Kind) : kindOfCode (kindCode k) = some k := by cases k <;> rfl

theorem twoCodes_referenceCode (r : Reference) : twoCodes (referenceCode r) Reference.wall .elapsed = some r := by
  cases r <;> rfl

theorem twoCodes_policyCode (x : StepPolicy) : twoCodes (policyCode x) StepPolicy.fireLate .skip = some x := by cases x <;> rfl

theorem twoCodes_boolCode (b : Bool) : twoCodes (boolCode b) false true = some b := by cases b <;> rfl

theorem lineOfCode_lineCode (l : Line) : lineOfCode (lineCode l) = some l := by cases l <;> rfl

theorem lineCode_present (l : Line) : ¬ lineCode l = 255#8 := by cases l <;> decide

/-! ### Patterns (R35, 10.6) -/

/-- A pattern byte is read back (10.6). -/
theorem patternField_patternByte {f : Option Nat} {lo hi : Nat} (range : fieldInRange f lo hi = true) (small : hi < 255) :
    patternField (patternByte f) lo hi = some f := by
  cases f with
  | none => rfl
  | some x =>
    obtain ⟨low, high⟩ : lo ≤ x ∧ x ≤ hi := by simpa [fieldInRange] using range
    have value : (BitVec.ofNat 8 x).toNat = x := by
      rw [BitVec.toNat_ofNat]
      omega
    have present : BitVec.ofNat 8 x ≠ 0xFF := fun same => by
      have all := congrArg BitVec.toNat same
      rw [value] at all
      have max : (0xFF : Byte).toNat = 255 := rfl
      omega
    rw [patternByte, patternField, if_neg present, value, if_pos ⟨low, high⟩]

/-- The two bytes of a day selector (10.6). -/
def dayBytes (d : DaySelector) : List Byte :=
  match d with
  | .any => [0x00, 0x00]
  | .monthday d => [0x01, BitVec.ofNat 8 d]
  | .weekdays s => [0x02, s.setWidth 8]

/-- A day selector with a day of the month from 1 to 31, or with some weekday (R35). -/
def dayInRange (d : DaySelector) : Bool :=
  match d with
  | .any => true
  | .monthday d => decide (1 ≤ d) && decide (d ≤ 31)
  | .weekdays s => s != 0

theorem daySelectorField_dayBytes {d : DaySelector} (range : dayInRange d = true) :
    daySelectorField (byteAt (dayBytes d) 0) (byteAt (dayBytes d) 1) = some d := by
  cases d with
  | any => rfl
  | monthday d =>
    obtain ⟨low, high⟩ : 1 ≤ d ∧ d ≤ 31 := by simpa [dayInRange] using range
    have value : (BitVec.ofNat 8 d).toNat = d := by
      rw [BitVec.toNat_ofNat]
      omega
    simp [daySelectorField, dayBytes, value, low, high]
  | weekdays s =>
    have some : s ≠ 0 := by simpa [dayInRange] using range
    have back : (s.setWidth 8).setWidth 7 = s := BitVec.setWidth_setWidth_of_le _ (by decide)
    have present : ¬ s.setWidth 8 = 0#8 := fun zero => some (by rw [← back, zero]; rfl)
    have clear : (s.setWidth 8).msb = false := by simp [BitVec.msb_setWidth]
    simp [daySelectorField, dayBytes, present, clear, back]

theorem patternBytes_eq (pat : Pattern) :
    patternBytes pat = [patternByte pat.second, patternByte pat.minute, patternByte pat.hour, patternByte pat.month] ++
      dayBytes pat.day := rfl

theorem patternInRange_iff (pat : Pattern) :
    patternInRange pat = true ↔ fieldInRange pat.second 0 59 = true ∧ fieldInRange pat.minute 0 59 = true ∧
      fieldInRange pat.hour 0 23 = true ∧ fieldInRange pat.month 1 12 = true ∧ dayInRange pat.day = true := by
  rw [patternInRange]
  simp only [Bool.and_eq_true, and_assoc]
  rfl

/-- A pattern in range is read back from its bytes (R35, 10.6). -/
theorem patternAt_patternBytes {pat : Pattern} (range : patternInRange pat = true) (rest : List Byte) :
    patternAt (patternBytes pat ++ rest) 0 = some pat := by
  obtain ⟨second, minute, hour, month, day⟩ := (patternInRange_iff pat).mp range
  have kind : byteAt (patternBytes pat ++ rest) 4 = byteAt (dayBytes pat.day) 0 := by
    rw [patternBytes_eq]
    cases pat.day <;> rfl
  have value : byteAt (patternBytes pat ++ rest) 5 = byteAt (dayBytes pat.day) 1 := by
    rw [patternBytes_eq]
    cases pat.day <;> rfl
  simp only [patternAt, Nat.zero_add, kind, value, daySelectorField_dayBytes day]
  rw [patternBytes_eq]
  simp [patternField_patternByte, second, minute, hour, month]

/-! ### Fields behind other bytes -/

theorem quantityField_append_right {l k : List Byte} {o : Nat} (h : l.length ≤ o) (lo : Nat) :
    quantityField (l ++ k) o lo = quantityField k (o - l.length) lo := by
  rw [quantityField, quantityField, numField_append_right h]

theorem patternAt_append_right {l k : List Byte} : patternAt (l ++ k) l.length = patternAt k 0 := by
  simp only [patternAt, byteAt_drop, Nat.zero_add]
  rw [show byteAt (l ++ k) l.length = byteAt k 0 from byteAt_drop l k 0]

/-- A quantity of 40 bits is read back (R32 to R34, R198). -/
theorem quantityField_toBytes {x : BitVec 40} {lo : Nat} (low : lo ≤ x.toNat) (rest : List Byte) :
    quantityField (toBytes 5 x.toNat ++ rest) 0 lo = some x := by
  rw [quantityField, numField_toBytes_append rest x.isLt, if_pos low, BitVec.ofNat_toNat, BitVec.setWidth_eq]

theorem one_le_toNat {x : BitVec 40} (some : x ≠ 0) : 1 ≤ x.toNat :=
  Nat.one_le_iff_ne_zero.mpr fun zero => some (BitVec.eq_of_toNat_eq zero)

/-! ### The payload (10.5) -/

/-- The nine bytes of a CREATE_ENTRY payload before its timing block (10.5). -/
def createHead (tag : Half) (policy : StepPolicy) (notify persist : Bool) (strobe : Option StrobeAction) (t : Timing) :
    List Byte :=
  toBytes 2 tag.toNat ++
    [kindCode t.kind, referenceCode t.reference, policyCode policy, boolCode notify, boolCode persist] ++
    strobeActionBytes strobe

section Payload
variable (tag : Half) (policy : StepPolicy) (notify persist : Bool) (strobe : Option StrobeAction) (t : Timing)

theorem createPayload_eq :
    createPayload tag policy notify persist strobe t = createHead tag policy notify persist strobe t ++ timingBytes t := rfl

theorem createHead_length : (createHead tag policy notify persist strobe t).length = 9 := by
  cases strobe <;> simp [createHead, strobeActionBytes]

theorem timingBytes_length : (timingBytes t).length = 16 := by
  cases t with
  | calendar pat => cases day : pat.day <;> simp [timingBytes, patternBytes, day]
  | _ => simp [timingBytes]

theorem strobeField_create (range : strobeInRange strobe = true) :
    strobeField (createPayload tag policy notify persist strobe t) = some strobe := by
  rw [createPayload_eq, createHead, toBytes_two]
  cases strobe with
  | none => rfl
  | some a =>
    have width : ¬ a.width = 0#8 := by
      intro zero
      simp [strobeInRange, zero] at range
    simp [strobeField, strobeActionBytes, lineCode_present, lineOfCode_lineCode, width]

theorem createCodes_create (range : strobeInRange strobe = true) :
    createCodes (createPayload tag policy notify persist strobe t) =
      some ⟨t.kind, t.reference, policy, notify, persist, strobe⟩ := by
  have action := strobeField_create tag policy notify persist strobe t range
  simp only [createCodes, action]
  rw [createPayload_eq, createHead, toBytes_two]
  simp [kindOfCode_kindCode, twoCodes_referenceCode, twoCodes_policyCode, twoCodes_boolCode]

/-- The timing block alone decides the timing fields. -/
theorem timingFields_append {l : List Byte} (length : l.length = 9) (block : List Byte) :
    timeField (l ++ block) 9 = timeField block 0 ∧ quantityField (l ++ block) 15 1 = quantityField block 6 1 ∧
      quantityField (l ++ block) 20 16 = quantityField block 11 16 ∧ patternAt (l ++ block) 9 = patternAt block 0 := by
  refine ⟨?_, ?_, ?_, ?_⟩
  · rw [timeField_append_right (by omega), length]
  · rw [quantityField_append_right (by omega), length]
  · rw [quantityField_append_right (by omega), length]
  · rw [← length, patternAt_append_right]

theorem timingFields_create (range : timingInRange t = true) :
    timingFields t.kind t.reference (createPayload tag policy notify persist strobe t) = some t := by
  obtain ⟨time, delay_at, period_at, pattern⟩ := timingFields_append
    (createHead_length tag policy notify persist strobe t) (timingBytes t)
  rw [← createPayload_eq] at time delay_at period_at pattern
  generalize createPayload tag policy notify persist strobe t = payload at *
  cases t with
  | oneShotWall due =>
    show (timeField payload 9).map Timing.oneShotWall = _
    rw [time, timingBytes, timeField_timeBytes_append]
    rfl
  | oneShotElapsed delay =>
    have low : 1 ≤ delay.toNat := one_le_toNat (by simpa [timingInRange] using range)
    show (quantityField payload 15 1).map Timing.oneShotElapsed = _
    rw [delay_at, timingBytes, List.append_assoc, quantityField_append_right (by simp), List.length_replicate, Nat.sub_self,
      quantityField_toBytes low]
    rfl
  | periodicWall anchor period =>
    have long : 16 ≤ period.toNat := by simpa [timingInRange] using range
    show ((timeField payload 9).bind fun anchor =>
      (quantityField payload 20 16).map fun per => Timing.periodicWall anchor per) = _
    rw [time, period_at, timingBytes, quantityField_append_right (by simp), List.append_assoc, timeField_timeBytes_append]
    have block := quantityField_toBytes long []
    rw [List.append_nil] at block
    simp [block]
  | periodicElapsed delay period =>
    obtain ⟨some, long⟩ : delay ≠ 0 ∧ 16 ≤ period.toNat := by simpa [timingInRange] using range
    show ((quantityField payload 15 1).bind fun delay =>
      (quantityField payload 20 16).map fun per => Timing.periodicElapsed delay per) = _
    have first : quantityField (timingBytes (.periodicElapsed delay period)) 6 1 = Option.some delay := by
      rw [timingBytes, List.append_assoc, quantityField_append_right (by simp)]
      simpa using quantityField_toBytes (one_le_toNat some) (toBytes 5 period.toNat)
    have second : quantityField (timingBytes (.periodicElapsed delay period)) 11 16 = Option.some period := by
      rw [timingBytes, quantityField_append_right (by simp)]
      simpa using quantityField_toBytes long []
    rw [delay_at, period_at, first, second]
    rfl
  | calendar pat =>
    show (patternAt payload 9).map Timing.calendar = _
    rw [pattern, timingBytes, patternAt_patternBytes range]
    rfl

end Payload

/-- Settles O6: the codes stand in the nine bytes before the timing block, and the block is read by its kind. -/
theorem createPayloadIsReadBack : Obligations.CreatePayloadIsReadBack := by
  intro tag policy notify persist strobe t timing action
  refine ⟨?_, ?_, createCodes_create tag policy notify persist strobe t action,
    timingFields_create tag policy notify persist strobe t timing⟩
  · rw [createPayload_eq, List.length_append, createHead_length, timingBytes_length]
  · rw [createPayload_eq, createHead, List.append_assoc, List.append_assoc, numField_half_append]

end Sys2Proof.Machine
end

section
/-! PROOFS. The profile image is read back, and a damaged one is refused (R162, 10.7). -/

-- One proof after the other: the memory limit of the check bounds the threads of Lean.
set_option Elab.async false

namespace Sys2Proof.Machine

/-! ### Bytes from their fields -/

theorem ofBytes_injective {l k : List Byte} (length : l.length = k.length) (same : ofBytes l = ofBytes k) : l = k := by
  induction l generalizing k with
  | nil => exact (List.eq_nil_of_length_eq_zero length.symm).symm
  | cons x l ih =>
    obtain ⟨y, k, rfl⟩ := List.exists_cons_of_length_eq_add_one length.symm
    have lengths : l.length = k.length := by simpa using length
    have low := ofBytes_lt l
    have low' := ofBytes_lt k
    rw [ofBytes_cons, ofBytes_cons, lengths] at same
    rw [lengths] at low
    have pos : 0 < 256 ^ k.length := by positivity
    have top : x.toNat = y.toNat := by
      have tops := congrArg (· / 256 ^ k.length) same
      simpa [Nat.mul_add_div, Nat.mul_comm _ (256 ^ k.length), Nat.div_eq_of_lt low, Nat.div_eq_of_lt low', pos] using tops
    have rest : ofBytes l = ofBytes k := by
      rw [top] at same
      omega
    rw [BitVec.eq_of_toNat_eq top, ih lengths rest]

/-- A field is the bytes of its number (R198). -/
theorem toBytes_numField {l : List Byte} {o n : Nat} (inside : o + n ≤ l.length) : toBytes n (numField l o n) = field l o n := by
  have length : (field l o n).length = n := by
    simp [field]
    omega
  refine ofBytes_injective (by simp [length]) ?_
  rw [ofBytes_toBytes_of_lt (numField_lt l o n), numField]

theorem field_succ {l : List Byte} {o n : Nat} (inside : o < l.length) :
    field l o (n + 1) = byteAt l o :: field l (o + 1) n := by
  rw [field, List.drop_eq_getElem_cons inside, List.take_succ_cons, byteAt, List.getD_eq_getElem _ _ inside, field]

theorem field_zero (l : List Byte) (o : Nat) : field l o 0 = [] := by simp [field]

/-! ### Records (10.7) -/

theorem attributes_eq : ∀ a : Byte, a &&& 0xFC = 0 →
    (if a.getLsbD 0 then (0x01 : Byte) else 0x00) ||| (if a.getLsbD 1 then 0x02 else 0x00) = a := by decide +kernel

theorem strobeByte_of_record : ∀ x : Byte, (strobeRecordOf x).all (fun r => strobeByte r == x) = true := by decide +kernel

theorem strobeByte_of_some {x : Byte} {r : StrobeRecord} (record : strobeRecordOf x = some r) : strobeByte r = x := by
  have all := strobeByte_of_record x
  rw [record] at all
  simpa using all

/-- A record that is read has the bytes that it is sent with (10.7). -/
theorem field_of_profileAt {l : List Byte} {o : Nat} {r : Profile} (inside : o + 6 ≤ l.length) (record : profileAt l o = some r) :
    field l o 6 = profileBytes r := by
  have lease := numField_lt l (o + 1) 2
  simp only [profileAt] at record
  split_ifs at record with checks
  cases record
  obtain ⟨attributes, -⟩ := checks
  have whole : (BitVec.ofNat 16 (numField l (o + 1) 2)).toNat = numField l (o + 1) 2 := by
    rw [BitVec.toNat_ofNat]
    exact Nat.mod_eq_of_lt lease
  have parts : field l (o + 1) 5 = field l (o + 1) 2 ++ field l (o + 3) 3 := by
    rw [field, field, field, show (5 : Nat) = 2 + 3 from rfl, List.take_add, List.drop_drop]
  rw [field_succ (by omega), parts, field_succ (o := o + 3) (by omega), field_succ (o := o + 4) (by omega),
    field_succ (o := o + 5) (by omega), field_zero, ← toBytes_numField (o := o + 1) (by omega)]
  simp only [profileBytes, whole, attributes_eq _ attributes]
  rfl

theorem field_of_strobeMapAt {l : List Byte} {o : Nat} {m : PerLine StrobeRecord} (inside : o + 4 ≤ l.length)
    (map : strobeMapAt l o = some m) : field l o 4 = strobeMapBytes m := by
  unfold strobeMapAt at map
  split at map
  · next a b c d at_a at_b at_c at_d =>
    cases map
    rw [field_succ (by omega), field_succ (o := o + 1) (by omega), field_succ (o := o + 2) (by omega),
      field_succ (o := o + 3) (by omega), field_zero, strobeMapBytes, strobeByte_of_some at_a, strobeByte_of_some at_b,
      strobeByte_of_some at_c, strobeByte_of_some at_d]
  · simp at map

theorem fields_of_profileTableAt {l : List Byte} {o : Nat} {t : PerPort Profile} (inside : o + 24 ≤ l.length)
    (table : profileTableAt l o = some t) :
    field l o 6 = profileBytes t.a ∧ field l (o + 6) 6 = profileBytes t.b ∧ field l (o + 12) 6 = profileBytes t.c ∧
      field l (o + 18) 6 = profileBytes t.d := by
  unfold profileTableAt at table
  split at table
  · next a b c d at_a at_b at_c at_d =>
    cases table
    exact ⟨field_of_profileAt (by omega) at_a, field_of_profileAt (by omega) at_b, field_of_profileAt (by omega) at_c,
      field_of_profileAt (by omega) at_d⟩
  · simp at table

/-! ### The image (10.7) -/

theorem sum_fits (n : Nat) : n % 65536 < 256 ^ 2 := Nat.mod_lt n (by decide)

section Image
variable (t : PerPort Profile) (m : PerLine StrobeRecord)

theorem imageBody_length : (imageBody t m).length = 31 := by simp [imageBody, profileBytes_length, strobeMapBytes]

theorem profileImage_length : (profileImage t m).length = 33 := by simp [profileImage, imageBody_length]

theorem profileImage_take : (profileImage t m).take 31 = imageBody t m := by
  rw [profileImage, List.take_append_of_le_length (by rw [imageBody_length]), List.take_of_length_le (by rw [imageBody_length])]

/-- An image ends with the sum of its first 31 bytes (R162). -/
theorem profileImage_drop :
    (profileImage t m).drop 31 = toBytes 2 ((((profileImage t m).take 31).map (·.toNat)).sum % 65536) := by
  rw [profileImage_take, profileImage, List.drop_append_of_le_length (by rw [imageBody_length]),
    List.drop_of_length_le (by rw [imageBody_length]), List.nil_append]

theorem profileAt_of_append {image l k : List Byte} {r : Profile} {o : Nat} (image_eq : image = l ++ (profileBytes r ++ k))
    (length : l.length = o) (range : profileInRange r = true) : profileAt image o = some r := by
  rw [image_eq, ← length, profileAt_profileBytes l k r range]

theorem profileTableAt_image (ranges : ∀ p, profileInRange (t.get p) = true) :
    profileTableAt (profileImage t m) 3 = some t := by
  have a : profileAt (profileImage t m) 3 = some t.a :=
    profileAt_of_append (l := [0x43, 0x54, 0x01]) (by simp only [profileImage, imageBody, List.append_assoc]; rfl) rfl
      (ranges .a)
  have b : profileAt (profileImage t m) 9 = some t.b :=
    profileAt_of_append (l := [0x43, 0x54, 0x01] ++ profileBytes t.a)
      (by simp only [profileImage, imageBody, List.append_assoc]; rfl) (by simp [profileBytes_length]) (ranges .b)
  have c : profileAt (profileImage t m) 15 = some t.c :=
    profileAt_of_append (l := [0x43, 0x54, 0x01] ++ profileBytes t.a ++ profileBytes t.b)
      (by simp only [profileImage, imageBody, List.append_assoc]; rfl) (by simp [profileBytes_length]) (ranges .c)
  have d : profileAt (profileImage t m) 21 = some t.d :=
    profileAt_of_append (l := [0x43, 0x54, 0x01] ++ profileBytes t.a ++ profileBytes t.b ++ profileBytes t.c)
      (by simp only [profileImage, imageBody, List.append_assoc]; rfl) (by simp [profileBytes_length]) (ranges .d)
  simp [profileTableAt, a, b, c, d]

theorem strobeMapAt_image : strobeMapAt (profileImage t m) 27 = some m := by
  have length : ([0x43, 0x54, 0x01] ++ profileBytes t.a ++ profileBytes t.b ++ profileBytes t.c ++ profileBytes t.d).length =
      27 := by simp [profileBytes_length]
  have lines := strobeMapAt_bytes
    ([0x43, 0x54, 0x01] ++ profileBytes t.a ++ profileBytes t.b ++ profileBytes t.c ++ profileBytes t.d)
    (toBytes 2 (((imageBody t m).map (·.toNat)).sum % 65536)) m
  rw [length, ← List.append_assoc] at lines
  exact lines

/-- The image of tables in range with an ADMIN passes the checks (R162). -/
theorem judgeImage_image (ranges : ∀ p, profileInRange (t.get p) = true) (admin : ∃ p, (t.get p).admin = true) :
    judgeImage (profileImage t m) = some (t, m) := by
  have sum : numField (profileImage t m) 31 2 = (((profileImage t m).take 31).map (·.toNat)).sum % 65536 := by
    have body := imageBody_length t m
    rw [profileImage_take, profileImage, numField_append_right (by omega), body, Nat.sub_self,
      numField_toBytes (sum_fits _)]
  have first : byteAt (profileImage t m) 0 = 0x43 := rfl
  have second : byteAt (profileImage t m) 1 = 0x54 := rfl
  have version : byteAt (profileImage t m) 2 = 0x01 := rfl
  simp [judgeImage, profileImage_length, first, second, version, sum, profileTableAt_image t m ranges, strobeMapAt_image,
    (someAdmin_iff t).mpr admin]

end Image

/-- Bytes that pass the checks are the image of their tables (R162). -/
theorem eq_image_of_judged {t : PerPort Profile} {m : PerLine StrobeRecord} {bytes : List Byte}
    (judged : judgeImage bytes = some (t, m)) : bytes = profileImage t m := by
  unfold judgeImage at judged
  split_ifs at judged with length marker version sum
  have length : bytes.length = 33 := not_not.mp length
  obtain ⟨first, second⟩ := marker
  have version : byteAt bytes 2 = 0x01 := not_not.mp version
  have sum := not_not.mp sum
  cases table : profileTableAt bytes 3 with
  | none => simp [table] at judged
  | some u =>
    cases map : strobeMapAt bytes 27 with
    | none => simp [table, map] at judged
    | some n =>
      simp only [table, map, Option.ite_none_right_eq_some, Option.some.injEq, Prod.mk.injEq] at judged
      obtain ⟨-, rfl, rfl⟩ := judged
      obtain ⟨a, b, c, d⟩ := fields_of_profileTableAt (by omega) table
      have lines := field_of_strobeMapAt (by omega) map
      have head : field bytes 0 3 = [0x43, 0x54, 0x01] := by
        rw [field_succ (by omega), field_succ (by omega), field_succ (by omega), field_zero, first, second, version]
      have body : bytes.take 31 = imageBody u n := by
        have parts : bytes.take 31 = field bytes 0 3 ++ field bytes 3 6 ++ field bytes 9 6 ++ field bytes 15 6 ++
            field bytes 21 6 ++ field bytes 27 4 := by
          rw [show (31 : Nat) = 3 + 6 + 6 + 6 + 6 + 4 from rfl]
          simp only [List.take_add, field, List.drop_zero]
        rw [parts, head, a, b, c, d, lines, imageBody]
      have check : bytes.drop 31 = toBytes 2 (((imageBody u n).map (·.toNat)).sum % 65536) := by
        rw [← body, sum, toBytes_numField (by omega), field, List.take_of_length_le (by simp [length])]
      rw [← List.take_append_drop 31 bytes, body, check, profileImage]

/-! ### A damaged image (R162) -/

theorem sum_set {l : List Byte} {i : Nat} (inside : i < l.length) (x : Byte) :
    ((l.set i x).map (·.toNat)).sum + l[i].toNat = (l.map (·.toNat)).sum + x.toNat := by
  induction l generalizing i with
  | nil => simp at inside
  | cons y l ih =>
    cases i with
    | zero => simp only [List.set_cons_zero, List.map_cons, List.sum_cons, List.getElem_cons_zero]; omega
    | succ i =>
      have rest := ih (i := i) (by simpa using inside)
      simp only [List.set_cons_succ, List.map_cons, List.sum_cons, List.getElem_cons_succ]
      omega

theorem sum_le (l : List Byte) : (l.map (·.toNat)).sum ≤ 255 * l.length := by
  induction l with
  | nil => simp
  | cons x l ih =>
    have small := x.isLt
    simp only [List.map_cons, List.sum_cons, List.length_cons]
    omega

/-- Two images of which one is the other with one byte replaced are the same (R162). -/
theorem image_set {t t' : PerPort Profile} {m m' : PerLine StrobeRecord} {i : Nat} {x : Byte}
    (inside : i < (profileImage t m).length) (damaged : (profileImage t m).set i x = profileImage t' m') :
    x = (profileImage t m)[i] := by
  have length := profileImage_length t m
  have check := profileImage_drop t m
  have check' := profileImage_drop t' m'
  rw [← damaged] at check'
  generalize profileImage t m = w at *
  by_cases body : i < 31
  · have short : i < (w.take 31).length := by simp [length, body]
    have sum := sum_set short x
    have low := sum_le (w.take 31)
    have low' := sum_le ((w.take 31).set i x)
    rw [List.drop_set_of_lt body, check, List.take_set] at check'
    have same := congrArg ofBytes check'
    rw [ofBytes_toBytes_of_lt (sum_fits _), ofBytes_toBytes_of_lt (sum_fits _)] at same
    simp only [List.length_take, List.length_set, length] at low low'
    rw [List.getElem_take] at sum
    exact BitVec.eq_of_toNat_eq (by omega)
  · have same : w.set i x = w := by
      have kept : (w.set i x).take 31 = w.take 31 := List.take_set_of_le (by omega)
      rw [kept, ← check] at check'
      rw [← List.take_append_drop 31 (w.set i x), kept, check', List.take_append_drop]
    have here : (w.set i x)[i]'(by simpa using inside) = x := List.getElem_set_self _
    simp only [same] at here
    exact here.symm

/-- Settles O5: bytes that pass are the image of their tables, and no image is another one with one byte replaced. -/
theorem profileImageIsReadBack : Obligations.ProfileImageIsReadBack := by
  intro t m
  refine ⟨fun bytes => ⟨fun judged => ?_, fun ⟨is, ranges, admin⟩ => ?_⟩, fun i inside x changed => ?_⟩
  · obtain ⟨ranges, admin⟩ := tablesOk_of_judgeImage judged
    exact ⟨eq_image_of_judged judged, ranges, admin⟩
  · rw [is, judgeImage_image t m ranges admin]
  · cases judged : judgeImage ((profileImage t m).set i x) with
    | none => rfl
    | some tables =>
      obtain ⟨t', m'⟩ := tables
      exact absurd (image_set inside (eq_image_of_judged judged)) changed

end Sys2Proof.Machine
end
